-- ==== Sys2Proof/Word.lean ====
section
/-!
DEFINITION. The machine's word types and the register index: a word of 32 bits, an instruction word of 16 bits, a byte,
and the index that names a register (10_state.md R21, R22; 00_scope.md R10, R11).
-/

namespace Sys2Proof

/-- A register value or an address: 32 bits, unsigned, arithmetic modulo 2^32 (00_scope.md R10, R11). -/
abbrev Word := BitVec 32

/-- An instruction word: 16 bits, bit 15 the most significant (00_scope.md R7, R11). -/
abbrev HWord := BitVec 16

/-- A byte of the reference caller's byte view of an instruction word (20_memory.md R42). -/
abbrev Byte := BitVec 8

/-- A register index that a 3-bit field can name: 0 to 7 (10_state.md R22, 30_encoding.md R66). -/
abbrev LowReg := Fin 8

/-- A register index: "13 general-purpose slots (r0–r12), plus three symbolic aliases SP, LR, PC that map to dedicated
storage rather than the general array" (10_state.md R22). As numbers, `gen i` is `i`, SP is 13, LR is 14, PC is 15. -/
inductive Reg where
  | gen (i : Fin 13)
  | sp
  | lr
  | pc
  deriving DecidableEq, Repr

end Sys2Proof
end

