-- ==== Sys2Proof/Syntax.lean ====
section
/-!
DEFINITION. The instruction variants: one constructor for each row of spec/opcode_table.json (30_encoding.md R52).

A constructor carries the independent members of the decoded value of 41_decode.md R101; the members that rule fixes by
the tag (Rn = Rd, Rd = 13, the policy) are computed from it by `Instr.members`, so that a value which breaks those
equalities cannot be written (41_decode.md R115; log 13).
-/

namespace Sys2Proof

/-- A decoded instruction variant (41_decode.md R101). -/
inductive Instr where
  /-- ADD_SP_SP, `ADD SP, Rm`: Rd = Rn = 13 (R54, R103, R126). -/
  | addSpSp (rm : Reg)
  /-- ADD_RD_SP, `ADD Rdm, SP, Rdm`: Rn = 13, Rm = Rd (R55, R104, R125). -/
  | addRdSp (rdm : Reg)
  /-- ADD_HI, `ADD Rdn, Rm`: Rn = Rd (R56, R105, R124). -/
  | addHi (rdn rm : Reg)
  /-- ADD_LO, `ADDS Rd, Rn, Rm` (R57, R106, R121). -/
  | addLo (rd rn rm : LowReg)
  /-- SUB_LO, `SUBS Rd, Rn, Rm` (R58, R107, R140). -/
  | subLo (rd rn rm : LowReg)
  /-- ADD_I3, `ADDS Rd, Rn, #imm3` (R59, R108, R122). -/
  | addI3 (rd rn : LowReg) (imm : BitVec 3)
  /-- ADD_I8, `ADDS Rdn, #imm8`: Rn = Rd (R60, R109, R123). -/
  | addI8 (rdn : LowReg) (imm : BitVec 8)
  /-- LSL_I, `LSLS Rd, Rm, #imm5`: the raw field, 0 is a shift by 0 (R61, R110, R152). -/
  | lslI (rd rm : LowReg) (imm : BitVec 5)
  /-- LSR_I, `LSRS Rd, Rm, #imm`: the raw field, 0 means 32 at Execute (R62, R111, R153). -/
  | lsrI (rd rm : LowReg) (imm : BitVec 5)
  /-- LSL_R, `LSLS Rdn, Rm`: Rn = Rd, the amount in Rm (R63, R112, R154). -/
  | lslR (rdn rm : LowReg)
  /-- LSR_R, `LSRS Rdn, Rm`: Rn = Rd, the amount in Rm (R64, R113, R155). -/
  | lsrR (rdn rm : LowReg)
  deriving DecidableEq, Repr

end Sys2Proof
end

