-- ==== Sys2Proof/WellFormed.lean ====
section
/-!
DEFINITION. Which variant values are well formed: the constraints of the table of 41_decode.md R101 that the types do
not already impose. By 41_decode.md R115 these are the values some word decodes to.
-/

namespace Sys2Proof

/-- `Rd ≠ 13` for ADD_RD_SP, `Rd ≠ 13` and `Rm ≠ 13` for ADD_HI; every other constraint of R101 holds by type. -/
def Instr.wf : Instr → Bool
  | .addSpSp _ => true
  | .addRdSp rdm => decide (rdm ≠ .sp)
  | .addHi rdn rm => decide (rdn ≠ .sp) && decide (rm ≠ .sp)
  | .addLo _ _ _ => true
  | .subLo _ _ _ => true
  | .addI3 _ _ _ => true
  | .addI8 _ _ => true
  | .lslI _ _ _ => true
  | .lsrI _ _ _ => true
  | .lslR _ _ => true
  | .lsrR _ _ => true

end Sys2Proof
end

