-- ==== Sys2Proof/Decode.lean ====
section
/-!
DEFINITION. The decoder (30_encoding.md, 41_decode.md): the catalog of masks and patterns, the Identify predicate, the
field extractors, Decode, the members of a decoded value, and the encoder that undoes Decode. The bit layouts are the
spec's own, marked there as general knowledge (log 10).
-/

namespace Sys2Proof

/-- The tag of a catalog entry (30_encoding.md R52). -/
inductive Variant where
  | addSpSp | addRdSp | addHi | addLo | subLo | addI3 | addI8 | lslI | lsrI | lslR | lsrR
  deriving DecidableEq, Repr

/-- The setflags policy of an encoding (40_primitives.md R90). -/
inductive SetFlags where
  | always
  | never
  | notIt
  deriving DecidableEq, Repr

/-- What Decode answers (00_scope.md R7): a variant value, or the unrecognized-instruction error with the word. -/
inductive Decoded where
  | variant (i : Instr)
  | unrecognized (word : HWord)
  deriving DecidableEq, Repr

/-- The members of a decoded value as 41_decode.md R101 lists them; `none` where a tag has no such member. -/
structure Members where
  rd : Reg
  rn : Option Reg
  rm : Option Reg
  imm : Option Nat
  setflags : SetFlags
  deriving DecidableEq, Repr

/-- What the reference caller's byte view of Decode answers: an instruction and the bytes after it, an unrecognized word
and the bytes after it, or too few bytes for a word. -/
inductive BytesDecoded where
  | variant (i : Instr) (rest : List Byte)
  | unrecognized (word : HWord) (rest : List Byte)
  | incomplete (bytes : List Byte)
  deriving DecidableEq, Repr

/-! ### Register indices as bits (10_state.md R22, 30_encoding.md R66) -/

/-- The register a low index names. -/
def lowReg (r : LowReg) : Reg := .gen ⟨r.val, by omega⟩

/-- The register a 4-bit index names: 0 to 12 general, 13 SP, 14 LR, 15 PC. -/
def regOfBits (b : BitVec 4) : Reg :=
  if h : b.toNat < 13 then .gen ⟨b.toNat, h⟩
  else if b = 13#4 then .sp
  else if b = 14#4 then .lr
  else .pc

/-- The 4-bit index of a register. -/
def bitsOfReg : Reg → BitVec 4
  | .gen i => BitVec.ofNat 4 i.val
  | .sp => 13#4
  | .lr => 14#4
  | .pc => 15#4

/-- The 3-bit field of a low index. -/
def bitsOfLow (r : LowReg) : BitVec 3 := BitVec.ofFin r

/-- The low index in the 3-bit field of `w` whose lowest bit is `lo`. -/
def lowAt (w : HWord) (lo : Nat) : LowReg := (w.extractLsb' lo 3).toFin

/-- The register in the 4-bit field `w[6:3]` of the HIR formats. -/
def rmHigh (w : HWord) : Reg := regOfBits (w.extractLsb' 3 4)

/-- The register in the split field `w[7]:w[2:0]` of the HIR formats. -/
def rdHigh (w : HWord) : Reg := regOfBits (w.extractLsb' 7 1 ++ w.extractLsb' 0 3)

/-! ### The catalog (30_encoding.md R51, R52) -/

/-- The priority number: a smaller number is tried first. -/
def Variant.priority : Variant → Nat
  | .addSpSp => 1
  | .addRdSp => 2
  | .addHi => 3
  | .addLo => 4
  | .subLo => 5
  | .addI3 => 6
  | .addI8 => 7
  | .lslI => 8
  | .lsrI => 9
  | .lslR => 10
  | .lsrR => 11

/-- The bits the discriminator selects. -/
def Variant.mask : Variant → HWord
  | .addSpSp => 0xFF87#16
  | .addRdSp => 0xFF78#16
  | .addHi => 0xFF00#16
  | .addLo => 0xFE00#16
  | .subLo => 0xFE00#16
  | .addI3 => 0xFE00#16
  | .addI8 => 0xF800#16
  | .lslI => 0xF800#16
  | .lsrI => 0xF800#16
  | .lslR => 0xFFC0#16
  | .lsrR => 0xFFC0#16

/-- The value the selected bits must have. -/
def Variant.pattern : Variant → HWord
  | .addSpSp => 0x4485#16
  | .addRdSp => 0x4468#16
  | .addHi => 0x4400#16
  | .addLo => 0x1800#16
  | .subLo => 0x1A00#16
  | .addI3 => 0x1C00#16
  | .addI8 => 0x3000#16
  | .lslI => 0x0000#16
  | .lsrI => 0x0800#16
  | .lslR => 0x4080#16
  | .lsrR => 0x40C0#16

/-- The catalog in priority order. -/
def catalog : List Variant :=
  [.addSpSp, .addRdSp, .addHi, .addLo, .subLo, .addI3, .addI8, .lslI, .lsrI, .lslR, .lsrR]

/-- `RawMatch_v(word) = ((word & mask_v) == pattern_v)` (30_encoding.md R51). -/
def rawMatch (v : Variant) (w : HWord) : Bool := (w &&& v.mask) == v.pattern

/-- `Identify_v(word)`: a raw match that no entry of smaller priority number shares (30_encoding.md R51). -/
def identify (v : Variant) (w : HWord) : Bool :=
  rawMatch v w && catalog.all fun u => !(decide (u.priority < v.priority) && rawMatch u w)

/-! ### Decode (41_decode.md R100, R103 to R114) -/

/-- `Extract_v(word)`, rules R103 to R113 in the order of the catalog. -/
def extract (v : Variant) (w : HWord) : Instr :=
  match v with
  | .addSpSp => .addSpSp (rmHigh w)
  | .addRdSp => .addRdSp (rdHigh w)
  | .addHi => .addHi (rdHigh w) (rmHigh w)
  | .addLo => .addLo (lowAt w 0) (lowAt w 3) (lowAt w 6)
  | .subLo => .subLo (lowAt w 0) (lowAt w 3) (lowAt w 6)
  | .addI3 => .addI3 (lowAt w 0) (lowAt w 3) (w.extractLsb' 6 3)
  | .addI8 => .addI8 (lowAt w 8) (w.extractLsb' 0 8)
  | .lslI => .lslI (lowAt w 0) (lowAt w 3) (w.extractLsb' 6 5)
  | .lsrI => .lsrI (lowAt w 0) (lowAt w 3) (w.extractLsb' 6 5)
  | .lslR => .lslR (lowAt w 0) (lowAt w 3)
  | .lsrR => .lsrR (lowAt w 0) (lowAt w 3)

/-- `Decode(word)`: the first raw match in priority order, extracted; else the failure carrying the word (R100, R114). -/
def decode (w : HWord) : Decoded :=
  match catalog.find? fun v => rawMatch v w with
  | some v => .variant (extract v w)
  | none => .unrecognized w

/-! ### The members of a decoded value (41_decode.md R101) -/

/-- The tag of a variant value. -/
def Instr.tag : Instr → Variant
  | .addSpSp _ => .addSpSp
  | .addRdSp _ => .addRdSp
  | .addHi _ _ => .addHi
  | .addLo _ _ _ => .addLo
  | .subLo _ _ _ => .subLo
  | .addI3 _ _ _ => .addI3
  | .addI8 _ _ => .addI8
  | .lslI _ _ _ => .lslI
  | .lsrI _ _ _ => .lsrI
  | .lslR _ _ => .lslR
  | .lsrR _ _ => .lsrR

/-- The policy, "a property of the *encoding*, fixed at decode time" (40_primitives.md R90; log 12). -/
def Variant.setflags : Variant → SetFlags
  | .addSpSp => .never
  | .addRdSp => .never
  | .addHi => .never
  | .addLo => .notIt
  | .subLo => .notIt
  | .addI3 => .notIt
  | .addI8 => .notIt
  | .lslI => .notIt
  | .lsrI => .notIt
  | .lslR => .notIt
  | .lsrR => .notIt

/-- The row of R101's table that a variant value fills. -/
def Instr.members (i : Instr) : Members :=
  match i with
  | .addSpSp rm => ⟨.sp, some .sp, some rm, none, i.tag.setflags⟩
  | .addRdSp rdm => ⟨rdm, some .sp, some rdm, none, i.tag.setflags⟩
  | .addHi rdn rm => ⟨rdn, some rdn, some rm, none, i.tag.setflags⟩
  | .addLo rd rn rm => ⟨lowReg rd, some (lowReg rn), some (lowReg rm), none, i.tag.setflags⟩
  | .subLo rd rn rm => ⟨lowReg rd, some (lowReg rn), some (lowReg rm), none, i.tag.setflags⟩
  | .addI3 rd rn imm => ⟨lowReg rd, some (lowReg rn), none, some imm.toNat, i.tag.setflags⟩
  | .addI8 rdn imm => ⟨lowReg rdn, some (lowReg rdn), none, some imm.toNat, i.tag.setflags⟩
  | .lslI rd rm imm => ⟨lowReg rd, none, some (lowReg rm), some imm.toNat, i.tag.setflags⟩
  | .lsrI rd rm imm => ⟨lowReg rd, none, some (lowReg rm), some imm.toNat, i.tag.setflags⟩
  | .lslR rdn rm => ⟨lowReg rdn, some (lowReg rdn), some (lowReg rm), none, i.tag.setflags⟩
  | .lsrR rdn rm => ⟨lowReg rdn, some (lowReg rdn), some (lowReg rm), none, i.tag.setflags⟩

/-! ### The encoder (30_encoding.md R54 to R64): each encoding string, read from bit 15 down -/

/-- The word of a well-formed variant value. -/
def encode : Instr → HWord
  | .addSpSp rm => 0b010001001#9 ++ bitsOfReg rm ++ 0b101#3
  | .addRdSp rdm => 0b01000100#8 ++ (bitsOfReg rdm).extractLsb' 3 1 ++ 0b1101#4 ++ (bitsOfReg rdm).extractLsb' 0 3
  | .addHi rdn rm => 0b01000100#8 ++ (bitsOfReg rdn).extractLsb' 3 1 ++ bitsOfReg rm ++ (bitsOfReg rdn).extractLsb' 0 3
  | .addLo rd rn rm => 0b0001100#7 ++ bitsOfLow rm ++ bitsOfLow rn ++ bitsOfLow rd
  | .subLo rd rn rm => 0b0001101#7 ++ bitsOfLow rm ++ bitsOfLow rn ++ bitsOfLow rd
  | .addI3 rd rn imm => 0b0001110#7 ++ imm ++ bitsOfLow rn ++ bitsOfLow rd
  | .addI8 rdn imm => 0b00110#5 ++ bitsOfLow rdn ++ imm
  | .lslI rd rm imm => 0b00000#5 ++ imm ++ bitsOfLow rm ++ bitsOfLow rd
  | .lsrI rd rm imm => 0b00001#5 ++ imm ++ bitsOfLow rm ++ bitsOfLow rd
  | .lslR rdn rm => 0b0100000010#10 ++ bitsOfLow rm ++ bitsOfLow rdn
  | .lsrR rdn rm => 0b0100000011#10 ++ bitsOfLow rm ++ bitsOfLow rdn

/-! ### The byte view of the reference caller (20_memory.md R42, 92_eei_decisions.md D19; log 17) -/

/-- The byte at the lower address is `word[7:0]`, the byte at the next address is `word[15:8]`. -/
def wordOfBytes (lower next : Byte) : HWord := next ++ lower

/-- The two bytes of a word, the one at the lower address first. -/
def bytesOfWord (w : HWord) : List Byte := [w.extractLsb' 0 8, w.extractLsb' 8 8]

/-- Decode on bytes, total: the first two bytes make the word. -/
def decodeBytes : List Byte → BytesDecoded
  | lower :: next :: rest =>
    match decode (wordOfBytes lower next) with
    | .variant i => .variant i rest
    | .unrecognized w => .unrecognized w rest
  | bytes => .incomplete bytes

/-! ### A row of spec/opcode_table.json -/

/-- The instruction word of a row whose first `nbits` bits are `w`, every bit above them 0. -/
def tableWord (nbits w : Nat) : HWord := BitVec.ofNat 16 (w % 2 ^ nbits)

/-- The instruction Decode reads from that word, laid out as the reference caller's bytes (20_memory.md R42). -/
def decodeTableWord (nbits w : Nat) : Option Instr :=
  match decodeBytes (bytesOfWord (tableWord nbits w)) with
  | .variant i _ => some i
  | .unrecognized _ _ => none
  | .incomplete _ => none

end Sys2Proof
end

