-- ==== Sys2Proof/Config.lean ====
section
/-!
DEFINITION. What an implementation of the core fixes: the named parameters of 00_scope.md R10. The core's functions take
them as an argument, so that a claim can be stated for other values; `exec` runs at the decided values. The third
parameter of R10, `INIT`, is the argument of `Machine.State.init`. The spec leaves no result open, so there is no free
value here (93_implementation_defined.md part 1).
-/

namespace Sys2Proof

/-- The parameters of 00_scope.md R10 that are constants of the core. -/
structure Params where
  /-- `PC_READ_OFFSET`: added to the stored `pc` when an instruction reads PC as an operand. -/
  pcReadOffset : Word
  /-- `SP_WRITE_MASK`: ANDed onto a value an instruction writes to SP. -/
  spWriteMask : Word
  deriving DecidableEq, Repr

/-- The decided values: `PC_READ_OFFSET = 4` (92_eei_decisions.md D1; log 8), `SP_WRITE_MASK = 0xFFFFFFFF` (D8; log 9). -/
def Config.params : Params where
  pcReadOffset := 4#32
  spWriteMask := 0xFFFFFFFF#32

/-- The size of an instruction word in bytes, which the reference caller adds to `pc` (70_reset_and_hazards.md R196,
92_eei_decisions.md D12; log 5). -/
def Config.instrBytes : Word := 2#32

end Sys2Proof
end

