-- ==== Sys2Proof/Machine/State.lean ====
section
/-!
DEFINITION. The state of the machine as plain data: the record `Registers` of 10_state.md R20, which is all the state the
core has, and beside it what `exec` and `step` have no argument or result for: the caller's input `in_it_block`, Execute's
output `cf_changed`, and the reference caller's program (70_reset_and_hazards.md R196). Also why a step can stop.
-/

namespace Sys2Proof.Machine

/-- The stack-pointer selector, `MSP` or `PSP` (10_state.md R23, R27). -/
inductive SpSelect where
  | msp
  | psp
  deriving DecidableEq, Repr

/-- The condition flags, four independent Booleans (10_state.md R26). -/
structure Flags where
  /-- negative -/
  n : Bool
  /-- zero -/
  z : Bool
  /-- carry, unsigned overflow -/
  c : Bool
  /-- signed overflow -/
  v : Bool
  deriving DecidableEq, Repr

/-- "the full machine state consumed/produced by Execute" (10_state.md R20). -/
structure Registers where
  /-- r0 to r12 -/
  general : Vector Word 13
  /-- the stored program counter: the address the current instruction was fetched from (R25) -/
  pc : Word
  /-- link register -/
  lr : Word
  /-- banked stack pointer, main -/
  spMain : Word
  /-- banked stack pointer, process -/
  spProcess : Word
  /-- which bank SP is -/
  spSelect : SpSelect
  flags : Flags
  deriving DecidableEq, Repr

/-- The reference caller's program: "a finite map `prog` from even 32-bit addresses to 16-bit words"
(70_reset_and_hazards.md R196), as address and word pairs in the canonical form `Program.wf`. An address that is not
listed holds no word. It is no memory of the core, which has none (20_memory.md R40; log 3). -/
abbrev Program := List (Nat × HWord)

/-- The machine: the core's registers, the two interface values, and the reference caller's program. -/
structure State where
  /-- all the state of the core (R20) -/
  regs : Registers
  /-- the caller's input `in_it_block` for the next Execute (00_scope.md R8; log 1) -/
  inItBlock : Bool
  /-- the output `cf_changed` of the last Execute (00_scope.md R8; log 2) -/
  cfChanged : Bool
  /-- the reference caller's program (R196; log 3) -/
  prog : Program
  deriving DecidableEq, Repr

/-- The faults of the machine: one, "the only fault of the core" (60_exceptions.md R170). -/
inductive Fault where
  /-- Raised by Decode, through `raiseUnrecognized`, for a word no catalog entry identifies; records the raw word (R170,
  R171). Safe: the spec makes it a returned failure value, and a model stops there (R173). -/
  | unrecognizedInstruction (word : HWord)
  deriving DecidableEq, Repr

/-- Why a step has no instruction to run. -/
inductive Refusal where
  /-- Raised by no step of this model: the answer of an arm of `exec` whose instruction has no meaning yet, and every arm
  has one. Safe. -/
  | notModelled (mnemonic : String)
  /-- Raised by the reference caller's step when `pc` is not in the domain of the program: "the end of a run"
  (70_reset_and_hazards.md R196). No fault of the core. Safe: the machine stops (log 4). -/
  | halted
  deriving DecidableEq, Repr

/-! ### The canonical form of a program -/

/-- An address of the program map: even and of 32 bits (70_reset_and_hazards.md R196). -/
def Program.addressOk (a : Nat) : Bool := a % 2 == 0 && decide (a < 2 ^ 32)

/-- The canonical form: addresses strictly rising, each even and below 2^32. -/
def Program.wf : Program → Bool
  | [] => true
  | [(a, _)] => Program.addressOk a
  | (a, _) :: (b, w) :: rest => Program.addressOk a && decide (a < b) && Program.wf ((b, w) :: rest)

/-! ### Reset -/

/-- The registers at reset. The spec gives no value for any field (10_state.md R37); zero, `MSP` and false are the model's
own choice, DESIGN CHOICE, unsafe (log 6). -/
def Registers.reset : Registers where
  general := Vector.replicate 13 0#32
  pc := 0#32
  lr := 0#32
  spMain := 0#32
  spProcess := 0#32
  spSelect := .msp
  flags := ⟨false, false, false, false⟩

/-- The machine as the caller creates it with the registers `INIT` (00_scope.md R10, 10_state.md R37): outside an IT
block (70_reset_and_hazards.md R191), nothing executed yet, no program loaded (DESIGN CHOICE; log 7). -/
def State.init (INIT : Registers) : State where
  regs := INIT
  inItBlock := false
  cfChanged := false
  prog := []

/-- The machine right after reset. -/
def State.reset : State := State.init Registers.reset

end Sys2Proof.Machine
end

