-- ==== Sys2Proof/Machine/Ops.lean ====
section
/-!
DEFINITION. The named operations over the state: field updates, the operand read `x[i]` and the instruction write
`x[i] <- v` of 10_state.md R30 and R31, the program map, the one fault, and the end of an Execute.
-/

namespace Sys2Proof.Machine

/-! ### Field updates -/

def Registers.setGeneral (R : Registers) (i : Fin 13) (v : Word) : Registers := { R with general := R.general.set i v }
def Registers.setPc (R : Registers) (v : Word) : Registers := { R with pc := v }
def Registers.setLr (R : Registers) (v : Word) : Registers := { R with lr := v }
def Registers.setSpMain (R : Registers) (v : Word) : Registers := { R with spMain := v }
def Registers.setSpProcess (R : Registers) (v : Word) : Registers := { R with spProcess := v }
def Registers.setSpSelect (R : Registers) (x : SpSelect) : Registers := { R with spSelect := x }
def Registers.setFlags (R : Registers) (f : Flags) : Registers := { R with flags := f }

def State.setRegs (s : State) (R : Registers) : State := { s with regs := R }
def State.setInItBlock (s : State) (b : Bool) : State := { s with inItBlock := b }
def State.setCfChanged (s : State) (b : Bool) : State := { s with cfChanged := b }
def State.setProg (s : State) (p : Program) : State := { s with prog := p }

/-! ### The banked stack pointer (10_state.md R23) -/

/-- The bank `sp_select` names, resolved at the moment of the read. -/
def Registers.sp (R : Registers) : Word :=
  match R.spSelect with
  | .msp => R.spMain
  | .psp => R.spProcess

/-- Store into the bank `sp_select` names, resolved at the moment of the write; the other bank is untouched. -/
def Registers.setSp (R : Registers) (v : Word) : Registers :=
  match R.spSelect with
  | .msp => R.setSpMain v
  | .psp => R.setSpProcess v

/-- The selector as a bit, where one is needed: `MSP = 0`, `PSP = 1` (10_state.md R27, 92_eei_decisions.md D15). -/
def spSelectBit : SpSelect → BitVec 1
  | .msp => 0#1
  | .psp => 1#1

/-! ### Operand read and instruction write -/

/-- The operand read `x[i]` (10_state.md R30): changes no state; PC reads as the stored `pc` plus `PC_READ_OFFSET`. -/
def Registers.read (p : Params) (R : Registers) : Reg → Word
  | .gen i => R.general[i]
  | .sp => R.sp
  | .lr => R.lr
  | .pc => R.pc + p.pcReadOffset

/-- What a register write, and an Execute, answers: the registers after it and `cf_changed` (00_scope.md R8). -/
structure Executed where
  regs : Registers
  cfChanged : Bool
  deriving DecidableEq, Repr

/-- Bit 0 cleared, the alignment rule of a write to PC (10_state.md R31). -/
def clearBit0 (v : Word) : Word := v &&& 0xFFFFFFFE#32

/-- The instruction write `x[i] <- v` (10_state.md R31): exactly one field changes; `cf_changed` iff the index is PC. -/
def Registers.write (p : Params) (R : Registers) (r : Reg) (v : Word) : Executed :=
  match r with
  | .gen i => ⟨R.setGeneral i v, false⟩
  | .sp => ⟨R.setSp (v &&& p.spWriteMask), false⟩
  | .lr => ⟨R.setLr v, false⟩
  | .pc => ⟨R.setPc (clearBit0 v), true⟩

/-! ### The program of the reference caller (70_reset_and_hazards.md R196) -/

/-- The word at an address, `none` where the address is not in the domain. -/
def Program.lookup : Program → Nat → Option HWord
  | [], _ => none
  | (b, w) :: rest, a => if a = b then some w else Program.lookup rest a

/-- Put a word at an address, keeping the addresses strictly rising. -/
def Program.set : Program → Nat → HWord → Program
  | [], a, w => [(a, w)]
  | (b, v) :: rest, a, w =>
    if a < b then (a, w) :: (b, v) :: rest
    else if a = b then (a, w) :: rest
    else (b, v) :: Program.set rest a w

/-- Put the word two bytes make at an address, the byte at the lower address first (20_memory.md R42). -/
def Program.setBytes (g : Program) (a : Nat) (lower next : Byte) : Program := g.set a (wordOfBytes lower next)

/-! ### The one fault and the end of an Execute -/

/-- The one abnormal exit (60_exceptions.md R170 to R173, R178): the failure value with the raw word is returned to the
caller. No state is saved, nothing is pushed, no mode changes and control goes nowhere: the core has no exception entry,
and so no return from one (R179). The registers stay those of the state the failing call was given (R172). -/
def raiseUnrecognized (w : HWord) : Host.Outcome State Fault Refusal := .fault (.unrecognizedInstruction w)

/-- The end of an Execute: the registers and the output `cf_changed` stand in the next state. Execute does not advance
`pc` (10_state.md R28) and never fails (00_scope.md R13). -/
def State.complete (s : State) (e : Executed) : Host.Outcome State Fault Refusal :=
  .next ((s.setRegs e.regs).setCfChanged e.cfChanged)

end Sys2Proof.Machine
end

