-- ==== Sys2Proof/Machine/Operands.lean ====
section
/-!
DEFINITION. The operand forms that are not plain register indices: zero-extended immediates (30_encoding.md R65), shift
amounts from an immediate (44_shift.md R150) and from a register (R151), and the two kinds of shift.
-/

namespace Sys2Proof.Machine

/-- The shift kinds: LSL and LSR, no other (40_primitives.md R84). -/
inductive ShiftKind where
  | lsl
  | lsr
  deriving DecidableEq, Repr

/-- `zext_32(Imm)`: every immediate is unsigned, unscaled, never sign-extended (30_encoding.md R65). -/
def zext32 {n : Nat} (imm : BitVec n) : Word := imm.setWidth 32

/-- `ImmAmount(kind, Imm)`: 0 is a shift by 0 for LSL and means 32 for LSR, applied at Execute (44_shift.md R150). -/
def immAmount (kind : ShiftKind) (imm : BitVec 5) : Nat :=
  match kind with
  | .lsl => imm.toNat
  | .lsr => if imm.toNat = 0 then 32 else imm.toNat

/-- The low byte of the amount register, 0 to 255; bits 31:8 have no effect (44_shift.md R151, 40_primitives.md R89). -/
def regAmount (v : Word) : Nat := (v.extractLsb' 0 8).toNat

end Sys2Proof.Machine
end

