-- ==== Sys2Proof/Machine/Alu.lean ====
section
/-!
DEFINITION. The two shared primitives: the add-with-carry ALU, which also subtracts (40_primitives.md R80 to R83), and the
shift-with-carry-out unit (R84 to R89). Both are pure functions: they read and write no state.
-/

namespace Sys2Proof.Machine

/-- What AddWithCarry returns. -/
structure AluResult where
  result : Word
  carryOut : Bool
  overflow : Bool
  deriving DecidableEq, Repr

/-- `AddWithCarry(x, y, carry_in)` (40_primitives.md R80): the sum is unbounded, then narrowed; the carry is bit 32 of it
(R81); the overflow compares signs (R82). -/
def addWithCarry (x y : Word) (carryIn : Bool) : AluResult :=
  let usum := x.toNat + y.toNat + (if carryIn then 1 else 0)
  let result := BitVec.ofNat 32 usum
  { result := result
    carryOut := decide (2 ^ 32 ≤ usum)
    overflow := x.msb == y.msb && result.msb != x.msb }

/-- What ShiftWithCarryOut returns. -/
structure ShiftResult where
  result : Word
  carryOut : Bool
  deriving DecidableEq, Repr

/-- `ShiftWithCarryOut(value, kind, amount, carry_in)` (40_primitives.md R84). A shift by 0 passes the value and the carry
through (R85); 1 to 32 shift out bit `32 - amount` to the left (R86; log 14) or bit `amount - 1` to the right (R87); 33
and more give 0 and no carry (R88). -/
def shiftWithCarryOut (value : Word) (kind : ShiftKind) (amount : Nat) (carryIn : Bool) : ShiftResult :=
  if amount = 0 then ⟨value, carryIn⟩
  else if amount ≤ 32 then
    match kind with
    | .lsl => ⟨BitVec.ofNat 32 (value.toNat * 2 ^ amount), value.getLsbD (32 - amount)⟩
    | .lsr => ⟨BitVec.ofNat 32 (value.toNat / 2 ^ amount), value.getLsbD (amount - 1)⟩
  else ⟨0#32, false⟩

end Sys2Proof.Machine
end

