-- ==== Sys2Proof/Machine/Flags.lean ====
section
/-!
DEFINITION. The condition-flag logic: how a policy resolves (40_primitives.md R90) and the flag commit (R91).
-/

namespace Sys2Proof.Machine

/-- `Resolve(policy, in_it_block)` (40_primitives.md R90). -/
def resolve (policy : SetFlags) (inItBlock : Bool) : Bool :=
  match policy with
  | .always => true
  | .never => false
  | .notIt => !inItBlock

/-- `CommitFlags(policy, in_it_block, result, c, v_opt)` on the flags `f` (40_primitives.md R91): N and Z from the full
result, C as given, V as given by the arithmetic variants (`some`) and kept by the shifts (`none`). -/
def commitFlags (policy : SetFlags) (inItBlock : Bool) (result : Word) (c : Bool) (vOpt : Option Bool) (f : Flags) : Flags :=
  if resolve policy inItBlock then
    { n := result.msb
      z := decide (result = 0#32)
      c := c
      v := vOpt.getD f.v }
  else f

end Sys2Proof.Machine
end

