-- ==== Sys2Proof/Machine/Template.lean ====
section
/-!
DEFINITION. The Execute template every variant follows (40_primitives.md R92): operands read from the registers as they
were before the call, one computation, one register write, then the flag commit by the policy.
-/

namespace Sys2Proof.Machine

/-- Steps 3 and 4 of R92: write the result to `rd`, then commit the flags; both start from the registers `R`. -/
def finish (p : Params) (policy : SetFlags) (inItBlock : Bool) (R : Registers) (rd : Reg) (result : Word) (c : Bool)
    (vOpt : Option Bool) : Executed :=
  let e := R.write p rd result
  ⟨e.regs.setFlags (commitFlags policy inItBlock result c vOpt R.flags), e.cfChanged⟩

/-- The arithmetic variants: `(result, c, v) = AddWithCarry(x, y, carry_in)`, all four flags offered to the commit. -/
def arithmetic (p : Params) (policy : SetFlags) (inItBlock : Bool) (R : Registers) (rd : Reg) (x y : Word) (carryIn : Bool) :
    Executed :=
  let a := addWithCarry x y carryIn
  finish p policy inItBlock R rd a.result a.carryOut (some a.overflow)

/-- The shift variants: `(result, c) = ShiftWithCarryOut(value, kind, amount, flags.C)`, V not written. -/
def shifting (p : Params) (policy : SetFlags) (inItBlock : Bool) (R : Registers) (rd : Reg) (value : Word) (kind : ShiftKind)
    (amount : Nat) : Executed :=
  let r := shiftWithCarryOut value kind amount R.flags.c
  finish p policy inItBlock R rd r.result r.carryOut none

end Sys2Proof.Machine
end

