-- ==== Sys2Proof/Machine/Add.lean ====
section
/-!
DEFINITION. The ADD family, six variants (42_add.md R120 to R127): for each its Execute rule over the registers, at any
parameters, and its meaning on the machine, at the decided parameters. No variant raises anything.
-/

namespace Sys2Proof.Machine

/-- ADD_SP_SP (42_add.md R126): the selected bank gets SP + x[Rm]; policy NEVER. -/
def executeAddSpSp (p : Params) (rm : Reg) (R : Registers) (inItBlock : Bool) : Executed :=
  arithmetic p .never inItBlock R .sp (R.read p .sp) (R.read p rm) false

/-- ADD_RD_SP (42_add.md R125): x[Rdm] gets SP + x[Rdm]; policy NEVER. -/
def executeAddRdSp (p : Params) (rdm : Reg) (R : Registers) (inItBlock : Bool) : Executed :=
  arithmetic p .never inItBlock R rdm (R.read p .sp) (R.read p rdm) false

/-- ADD_HI (42_add.md R124): x[Rdn] gets x[Rdn] + x[Rm]; policy NEVER. -/
def executeAddHi (p : Params) (rdn rm : Reg) (R : Registers) (inItBlock : Bool) : Executed :=
  arithmetic p .never inItBlock R rdn (R.read p rdn) (R.read p rm) false

/-- ADD_LO (42_add.md R121): x[Rd] gets x[Rn] + x[Rm]; policy NOT_IT. -/
def executeAddLo (p : Params) (rd rn rm : LowReg) (R : Registers) (inItBlock : Bool) : Executed :=
  arithmetic p .notIt inItBlock R (lowReg rd) (R.read p (lowReg rn)) (R.read p (lowReg rm)) false

/-- ADD_I3 (42_add.md R122): x[Rd] gets x[Rn] + imm3; policy NOT_IT. -/
def executeAddI3 (p : Params) (rd rn : LowReg) (imm : BitVec 3) (R : Registers) (inItBlock : Bool) : Executed :=
  arithmetic p .notIt inItBlock R (lowReg rd) (R.read p (lowReg rn)) (zext32 imm) false

/-- ADD_I8 (42_add.md R123): x[Rdn] gets x[Rdn] + imm8; policy NOT_IT. -/
def executeAddI8 (p : Params) (rdn : LowReg) (imm : BitVec 8) (R : Registers) (inItBlock : Bool) : Executed :=
  arithmetic p .notIt inItBlock R (lowReg rdn) (R.read p (lowReg rdn)) (zext32 imm) false

/-! ### Meanings -/

def execAddSpSp (rm : Reg) (s : State) : Host.Outcome State Fault Refusal :=
  s.complete (executeAddSpSp Config.params rm s.regs s.inItBlock)

def execAddRdSp (rdm : Reg) (s : State) : Host.Outcome State Fault Refusal :=
  s.complete (executeAddRdSp Config.params rdm s.regs s.inItBlock)

def execAddHi (rdn rm : Reg) (s : State) : Host.Outcome State Fault Refusal :=
  s.complete (executeAddHi Config.params rdn rm s.regs s.inItBlock)

def execAddLo (rd rn rm : LowReg) (s : State) : Host.Outcome State Fault Refusal :=
  s.complete (executeAddLo Config.params rd rn rm s.regs s.inItBlock)

def execAddI3 (rd rn : LowReg) (imm : BitVec 3) (s : State) : Host.Outcome State Fault Refusal :=
  s.complete (executeAddI3 Config.params rd rn imm s.regs s.inItBlock)

def execAddI8 (rdn : LowReg) (imm : BitVec 8) (s : State) : Host.Outcome State Fault Refusal :=
  s.complete (executeAddI8 Config.params rdn imm s.regs s.inItBlock)

end Sys2Proof.Machine
end

