-- ==== Sys2Proof/Machine/Shift.lean ====
section
/-!
DEFINITION. The shift family, four variants (44_shift.md R150 to R155): for each its Execute rule over the registers, at
any parameters, and its meaning on the machine. Policy NOT_IT; V is not written.
-/

namespace Sys2Proof.Machine

/-- LSL_I (44_shift.md R152): x[Rd] gets x[Rm] shifted left by the immediate amount. -/
def executeLslI (p : Params) (rd rm : LowReg) (imm : BitVec 5) (R : Registers) (inItBlock : Bool) : Executed :=
  shifting p .notIt inItBlock R (lowReg rd) (R.read p (lowReg rm)) .lsl (immAmount .lsl imm)

/-- LSR_I (44_shift.md R153): x[Rd] gets x[Rm] shifted right by the immediate amount, 32 for a field of 0. -/
def executeLsrI (p : Params) (rd rm : LowReg) (imm : BitVec 5) (R : Registers) (inItBlock : Bool) : Executed :=
  shifting p .notIt inItBlock R (lowReg rd) (R.read p (lowReg rm)) .lsr (immAmount .lsr imm)

/-- LSL_R (44_shift.md R154): x[Rdn] gets x[Rdn] shifted left by the low byte of x[Rm]. -/
def executeLslR (p : Params) (rdn rm : LowReg) (R : Registers) (inItBlock : Bool) : Executed :=
  shifting p .notIt inItBlock R (lowReg rdn) (R.read p (lowReg rdn)) .lsl (regAmount (R.read p (lowReg rm)))

/-- LSR_R (44_shift.md R155): x[Rdn] gets x[Rdn] shifted right by the low byte of x[Rm]. -/
def executeLsrR (p : Params) (rdn rm : LowReg) (R : Registers) (inItBlock : Bool) : Executed :=
  shifting p .notIt inItBlock R (lowReg rdn) (R.read p (lowReg rdn)) .lsr (regAmount (R.read p (lowReg rm)))

/-! ### Meanings -/

def execLslI (rd rm : LowReg) (imm : BitVec 5) (s : State) : Host.Outcome State Fault Refusal :=
  s.complete (executeLslI Config.params rd rm imm s.regs s.inItBlock)

def execLsrI (rd rm : LowReg) (imm : BitVec 5) (s : State) : Host.Outcome State Fault Refusal :=
  s.complete (executeLsrI Config.params rd rm imm s.regs s.inItBlock)

def execLslR (rdn rm : LowReg) (s : State) : Host.Outcome State Fault Refusal :=
  s.complete (executeLslR Config.params rdn rm s.regs s.inItBlock)

def execLsrR (rdn rm : LowReg) (s : State) : Host.Outcome State Fault Refusal :=
  s.complete (executeLsrR Config.params rdn rm s.regs s.inItBlock)

end Sys2Proof.Machine
end

