-- ==== Sys2Proof/Machine/Sub.lean ====
section
/-!
DEFINITION. The SUB family, one variant (43_sub.md R140): its Execute rule over the registers and its meaning.
-/

namespace Sys2Proof.Machine

/-- SUB_LO (43_sub.md R140): x[Rd] gets x[Rn] - x[Rm], computed as x[Rn] + NOT(x[Rm]) + 1; policy NOT_IT. -/
def executeSubLo (p : Params) (rd rn rm : LowReg) (R : Registers) (inItBlock : Bool) : Executed :=
  arithmetic p .notIt inItBlock R (lowReg rd) (R.read p (lowReg rn)) (~~~(R.read p (lowReg rm))) true

def execSubLo (rd rn rm : LowReg) (s : State) : Host.Outcome State Fault Refusal :=
  s.complete (executeSubLo Config.params rd rn rm s.regs s.inItBlock)

end Sys2Proof.Machine
end

