-- ==== Sys2Proof/Machine/Dispatch.lean ====
section
/-!
DEFINITION. One arm for each instruction variant: a direct call of its meaning.
-/

namespace Sys2Proof.Machine

def exec (i : Instr) (s : State) : Host.Outcome State Fault Refusal :=
  match i with
  | .addSpSp rm => Sys2Proof.Machine.execAddSpSp rm s
  | .addRdSp rdm => Sys2Proof.Machine.execAddRdSp rdm s
  | .addHi rdn rm => Sys2Proof.Machine.execAddHi rdn rm s
  | .addLo rd rn rm => Sys2Proof.Machine.execAddLo rd rn rm s
  | .subLo rd rn rm => Sys2Proof.Machine.execSubLo rd rn rm s
  | .addI3 rd rn imm => Sys2Proof.Machine.execAddI3 rd rn imm s
  | .addI8 rdn imm => Sys2Proof.Machine.execAddI8 rdn imm s
  | .lslI rd rm imm => Sys2Proof.Machine.execLslI rd rm imm s
  | .lsrI rd rm imm => Sys2Proof.Machine.execLsrI rd rm imm s
  | .lslR rdn rm => Sys2Proof.Machine.execLslR rdn rm s
  | .lsrR rdn rm => Sys2Proof.Machine.execLsrR rdn rm s

end Sys2Proof.Machine
end

