-- ==== Sys2Proof/Machine/Caller.lean ====
section
/-!
DEFINITION. The core as a caller sees it, Decode then Execute of a word given by value (00_scope.md R2, R7, R8), and the
reference caller that fetches the word from its program and advances `pc` (70_reset_and_hazards.md R196). The reference
caller is the spec's own and says nothing of a real processor's fetch (log 3, log 5).
-/

namespace Sys2Proof.Machine

/-- One call of the core with a word: the fault of Decode, or Execute of the variant it gives. No fetch, no `pc` advance. -/
def coreCall (w : HWord) (s : State) : Host.Outcome State Fault Refusal :=
  match decode w with
  | .variant i => exec i s
  | .unrecognized u => raiseUnrecognized u

/-- The word at `pc`, `none` where `pc` is not in the domain of the program. -/
def fetch (s : State) : Option HWord := s.prog.lookup s.regs.pc.toNat

/-- The caller's advance after an Execute: 2 modulo 2^32 when `cf_changed` is false, nothing when it is true (R190). -/
def advance (s : State) : State :=
  if s.cfChanged then s else s.setRegs (s.regs.setPc (s.regs.pc + Config.instrBytes))

/-- `RefStep` (70_reset_and_hazards.md R196): `halted` when `pc` is outside the program; else the core's call on the word
at `pc`, and the advance. `in_it_block` is what the state holds, false for the reference caller (R191). -/
def refStep (s : State) : Host.Outcome State Fault Refusal :=
  match fetch s with
  | none => .refused .halted
  | some w =>
    match coreCall w s with
    | .next t => .next (advance t)
    | .fault f => .fault f
    | .refused r => .refused r

/-- How a run of the reference caller stands after some fuel (R196), with the state it stands in. -/
inductive RunResult where
  | running (s : State)
  | halted (s : State)
  | faulted (word : HWord) (s : State)
  | refused (r : Refusal) (s : State)
  deriving DecidableEq, Repr

/-- `RefRun` (R196): iterate `RefStep` at most `fuel` times until halted or fault; a fault leaves the state it met
(60_exceptions.md R172). -/
def refRun : Nat → State → RunResult
  | 0, s => .running s
  | fuel + 1, s =>
    match refStep s with
    | .next t => refRun fuel t
    | .fault (.unrecognizedInstruction w) => .faulted w s
    | .refused .halted => .halted s
    | .refused r => .refused r s

/-- Bit 0 of `pc` cleared and the word put where the reference caller fetches next (log 7). -/
def placeWord (s : State) (w : HWord) : State :=
  let pc := clearBit0 s.regs.pc
  (s.setRegs (s.regs.setPc pc)).setProg (s.prog.set pc.toNat w)

end Sys2Proof.Machine
end

