-- ==== Sys2Proof/Machine/Step.lean ====
section
/-!
DEFINITION. One step of the machine: the reference caller's step (70_reset_and_hazards.md R196).
-/

namespace Sys2Proof.Machine

/-- One step. -/
def step (s : State) : Host.Outcome State Fault Refusal := refStep s

/-- `s` with the word of an opcode-table row where `step` fetches next: at `pc`, whose bit 0 is cleared because the program
has even addresses only. It stands for the load of a program from outside the machine (log 7). -/
def State.withFetchWord (s : State) (nbits w : Nat) : State := placeWord s (tableWord nbits w)

end Sys2Proof.Machine
end

