-- ==== Sys2Proof/Machine/Execute.lean ====
section
/-!
DEFINITION. `Execute(variant, Registers, in_it_block) -> (Registers', cf_changed)` (40_primitives.md R92), the core's own
function over the registers alone, at any values of the parameters of 00_scope.md R10. The machine's `exec` is this at
the decided parameters.
-/

namespace Sys2Proof.Machine

/-- Execute, total on every variant value (00_scope.md R13). -/
def execute (p : Params) (i : Instr) (R : Registers) (inItBlock : Bool) : Executed :=
  match i with
  | .addSpSp rm => executeAddSpSp p rm R inItBlock
  | .addRdSp rdm => executeAddRdSp p rdm R inItBlock
  | .addHi rdn rm => executeAddHi p rdn rm R inItBlock
  | .addLo rd rn rm => executeAddLo p rd rn rm R inItBlock
  | .subLo rd rn rm => executeSubLo p rd rn rm R inItBlock
  | .addI3 rd rn imm => executeAddI3 p rd rn imm R inItBlock
  | .addI8 rdn imm => executeAddI8 p rdn imm R inItBlock
  | .lslI rd rm imm => executeLslI p rd rm imm R inItBlock
  | .lsrI rd rm imm => executeLsrI p rd rm imm R inItBlock
  | .lslR rdn rm => executeLslR p rdn rm R inItBlock
  | .lsrR rdn rm => executeLsrR p rdn rm R inItBlock

end Sys2Proof.Machine
end

