-- ==== Sys2Proof/Machine/Port.lean ====
section
/-!
DEFINITION. The caller's port on the register bank (00_scope.md R9, 10_state.md R34 to R36): what the caller reads and
writes between two Execute calls. `step` performs none of these; a claim about a caller that does uses them between steps.
Raw `pc` and the direct reach of the banks and the selector are the spec's decisions D9 and D15 (log 23).
-/

namespace Sys2Proof.Machine

/-- The 32-bit fields the caller reaches. -/
inductive WordPort where
  | general (i : Fin 13)
  | lr
  | pc
  | sp
  | spMain
  | spProcess
  deriving DecidableEq, Repr

/-- The flags, each reached individually. -/
inductive FlagPort where
  | n
  | z
  | c
  | v
  deriving DecidableEq, Repr

/-- A caller's read: the stored value; `pc` raw, without the read offset (R35); SP through the selected bank (R36). -/
def portRead (R : Registers) : WordPort → Word
  | .general i => R.general[i]
  | .lr => R.lr
  | .pc => R.pc
  | .sp => R.sp
  | .spMain => R.spMain
  | .spProcess => R.spProcess

/-- A caller's write: the value unchanged; no bit of `pc` is cleared (R35), SP is not masked (R36). -/
def portWrite (R : Registers) (a : WordPort) (x : Word) : Registers :=
  match a with
  | .general i => R.setGeneral i x
  | .lr => R.setLr x
  | .pc => R.setPc x
  | .sp => R.setSp x
  | .spMain => R.setSpMain x
  | .spProcess => R.setSpProcess x

/-- A caller's read of one flag (R34). -/
def portReadFlag (R : Registers) : FlagPort → Bool
  | .n => R.flags.n
  | .z => R.flags.z
  | .c => R.flags.c
  | .v => R.flags.v

/-- A caller's write of one flag (R34). -/
def portWriteFlag (R : Registers) (a : FlagPort) (b : Bool) : Registers :=
  match a with
  | .n => R.setFlags { R.flags with n := b }
  | .z => R.setFlags { R.flags with z := b }
  | .c => R.setFlags { R.flags with c := b }
  | .v => R.setFlags { R.flags with v := b }

/-- A caller's read of the selector (R36). -/
def portReadSelect (R : Registers) : SpSelect := R.spSelect

/-- A caller's write of the selector, the only way it changes (R27, R36). -/
def portWriteSelect (R : Registers) (x : SpSelect) : Registers := R.setSpSelect x

end Sys2Proof.Machine
end

