-- ==== Sys2Proof/Safety.lean ====
section
/-!
DEFINITION. What claims are stated with. First what a safe state and a safe run are: the launch premises of
70_reset_and_hazards.md R187 that can be said of a state, and the invariant of the machine under the reference caller.
Then the spec's own quantities, written apart from the machine's definitions so that a claim compares the two.
-/

namespace Sys2Proof.Safety

open Sys2Proof.Machine

/-! ### Premises and the invariant -/

/-- The premise `PcEven`: `pc[0] = 0` (R187). Checked by nothing in the core. -/
abbrev PcEven (s : State) : Prop := s.regs.pc.getLsbD 0 = false

/-- The premise `ItFlagTrue` under the reference caller, which has no IT instruction: `in_it_block` is false (R187, R191). -/
abbrev ItFlagTrue (s : State) : Prop := s.inItBlock = false

/-- The program is in canonical form. -/
abbrev ProgramWf (s : State) : Prop := s.prog.wf = true

/-- The premise `NoFault` for the next `fuel` steps: no run of that length faults (R187). -/
abbrev NoFault (fuel : Nat) (s : State) : Prop := ∀ w t, refRun fuel s ≠ .faulted w t

/-- The invariant of the machine: `pc` is even and the program is canonical. `PcIsFetchAddress` holds of every step by
construction (`fetch` reads at `pc`), `Serialized` because a step is one indivisible function, `Init` of every state. -/
abbrev Inv (s : State) : Prop := PcEven s ∧ ProgramWf s

/-- The state a run stands in, whichever way it ended. -/
def runState : RunResult → State
  | .running s => s
  | .halted s => s
  | .faulted _ s => s
  | .refused _ s => s

/-- The next state an outcome answers, if it answers one. -/
def nextOf : Host.Outcome State Fault Refusal → Option State
  | .next s => some s
  | .fault _ => none
  | .refused _ => none

/-! ### Words and decoded values -/

/-- The five ranges of recognized words (30_encoding.md R52). -/
abbrev RecognizedRange (w : HWord) : Prop :=
  w.toNat ≤ 0x0FFF ∨ (0x1800 ≤ w.toNat ∧ w.toNat ≤ 0x1DFF) ∨ (0x3000 ≤ w.toNat ∧ w.toNat ≤ 0x37FF) ∨
    (0x4080 ≤ w.toNat ∧ w.toNat ≤ 0x40FF) ∨ (0x4400 ≤ w.toNat ∧ w.toNat ≤ 0x44FF)

/-- The number of a register index: 0 to 12, SP 13, LR 14, PC 15 (10_state.md R22). -/
def regNumber : Reg → Nat
  | .gen i => i.val
  | .sp => 13
  | .lr => 14
  | .pc => 15

/-- The row a decoded word fills in the table of 41_decode.md R101, in numbers: Rd, Rn, Rm, Imm, policy. -/
def fields : Decoded → Option (Nat × Option Nat × Option Nat × Option Nat × SetFlags)
  | .variant i =>
    some (regNumber i.members.rd, i.members.rn.map regNumber, i.members.rm.map regNumber, i.members.imm, i.members.setflags)
  | .unrecognized _ => none

/-! ### Registers -/

/-- The value of a low register. -/
def lowValue (R : Registers) (r : LowReg) : Word := R.general[r.val]'(by omega)

/-- The registers with a low register replaced. -/
def withLow (R : Registers) (r : LowReg) (x : Word) : Registers :=
  { R with general := R.general.set r.val x (by omega) }

/-- The bank `sp_select` does not name. -/
def otherBank (R : Registers) : Word :=
  match R.spSelect with
  | .msp => R.spProcess
  | .psp => R.spMain

/-- The registers with the bank `sp_select` does not name replaced. -/
def withOtherBank (R : Registers) (x : Word) : Registers :=
  match R.spSelect with
  | .msp => { R with spProcess := x }
  | .psp => { R with spMain := x }

/-- The registers with the bank `sp_select` names replaced. -/
def withSelectedBank (R : Registers) (x : Word) : Registers :=
  match R.spSelect with
  | .msp => { R with spMain := x }
  | .psp => { R with spProcess := x }

/-! ### Flags, from exact integer arithmetic -/

/-- The flags of `a + b`: sign and zero of the sum, unsigned overflow, signed overflow (40_primitives.md R80 to R82). -/
def addFlags (a b : Word) : Flags where
  n := (a + b).msb
  z := decide (a + b = 0#32)
  c := decide (2 ^ 32 ≤ a.toNat + b.toNat)
  v := decide (a.toInt + b.toInt ≠ (a + b).toInt)

/-- The flags of `a - b`: sign and zero of the difference, no borrow, signed overflow (43_sub.md R140). -/
def subFlags (a b : Word) : Flags where
  n := (a - b).msb
  z := decide (a = b)
  c := decide (b.toNat ≤ a.toNat)
  v := decide (a.toInt - b.toInt ≠ (a - b).toInt)

/-- The flags after a shift: sign and zero of the result, the carry out, V kept (40_primitives.md R91). -/
def shiftFlags (result : Word) (c : Bool) (old : Flags) : Flags where
  n := result.msb
  z := decide (result = 0#32)
  c := c
  v := old.v

/-- The flags a flag-setting variant leaves: `new` outside an IT block, the old ones inside it (40_primitives.md R90). -/
def gated (s : State) (new : Flags) : Flags := if s.inItBlock then s.regs.flags else new

/-- The state a low-register variant leaves: one low register and the flags, no control transfer. -/
def afterLow (s : State) (rd : LowReg) (x : Word) (new : Flags) : State :=
  { s with regs := { withLow s.regs rd x with flags := gated s new }, cfChanged := false }

end Sys2Proof.Safety
end

