-- ==== Sys2Proof/Certificates/Slice0/Obligations.lean ====
section
/-!
DEFINITION. The statements for the provers. Each docstring names the rule or section of spec/ it formalises. `x[i]` of
the spec is `Registers.read Config.params`, whose five cases `OperandReadByIndex` states.
-/

open Sys2Proof Sys2Proof.Machine Sys2Proof.Safety

/-! ### Reset, the invariant, whole-machine rules -/

/-- For every `INIT` the machine starts outside an IT block with no program, so its step halts; and the reset state meets
the invariant. The reset values are the model's own choice, log 6 and log 7 (10_state.md section 10). -/
def Obligations.ResetStateOutsideItWithNoProgram : Prop :=
  (∀ INIT : Registers, (State.init INIT).regs = INIT ∧ ItFlagTrue (State.init INIT) ∧ ProgramWf (State.init INIT) ∧
    step (State.init INIT) = .refused .halted) ∧
  Inv State.reset

/-- The invariant of the machine: an even `pc` and a canonical program stay so under every step, from any state that meets
it (10_state.md R31, 70_reset_and_hazards.md R187, R196). -/
def Obligations.StepKeepsInvariant : Prop :=
  ∀ s t : State, Inv s → step s = .next t → Inv t

/-- A run of the reference caller, of any length and from any state, leaves the selector, the bank it does not name, the
input `in_it_block` and the program as they were (10_state.md R23, R27). -/
def Obligations.RunNeverTouchesSelectorOrOtherBank : Prop :=
  ∀ (fuel : Nat) (s : State),
    (runState (refRun fuel s)).regs.spSelect = s.regs.spSelect ∧
    otherBank (runState (refRun fuel s)).regs = otherBank s.regs ∧
    (runState (refRun fuel s)).inItBlock = s.inItBlock ∧
    (runState (refRun fuel s)).prog = s.prog

/-- The frame of every instruction: only the destination register (the bank of SP that `sp_select` names), and the flags
when the policy says so, can change (10_state.md section 6, 40_primitives.md section 3); V is kept by the shifts
(44_shift.md sections 2 and 3). That `in_it_block` and the program stand in the state, and that no instruction writes
them there, is the model's own convention (log 1, log 3). -/
def Obligations.ExecFrame : Prop :=
  ∀ (i : Instr) (s t : State), exec i s = .next t →
    (∀ k : Fin 13, i.members.rd ≠ .gen k → t.regs.general[k] = s.regs.general[k]) ∧
    (i.members.rd ≠ .lr → t.regs.lr = s.regs.lr) ∧
    (i.members.rd ≠ .pc → t.regs.pc = s.regs.pc) ∧
    (¬(i.members.rd = .sp ∧ s.regs.spSelect = .msp) → t.regs.spMain = s.regs.spMain) ∧
    (¬(i.members.rd = .sp ∧ s.regs.spSelect = .psp) → t.regs.spProcess = s.regs.spProcess) ∧
    t.regs.spSelect = s.regs.spSelect ∧
    (i.members.setflags = .never ∨ s.inItBlock = true → t.regs.flags = s.regs.flags) ∧
    (i.tag ∈ [Variant.lslI, .lsrI, .lslR, .lsrR] → t.regs.flags.v = s.regs.flags.v) ∧
    t.cfChanged = decide (i.members.rd = .pc) ∧
    t.inItBlock = s.inItBlock ∧
    (∀ a : Nat, t.prog.lookup a = s.prog.lookup a)

/-- R175: no instruction, in any state, fails. -/
def Obligations.ExecuteIsTotal : Prop :=
  ∀ (i : Instr) (s : State), ∃ t : State, exec i s = .next t

/-- The machine's `exec` is the core's Execute over the registers at the decided parameters, with `in_it_block` taken from
the caller's input and `cf_changed` put out; the program plays no part (40_primitives.md section 4). -/
def Obligations.ExecIsExecuteAtDecidedParameters : Prop :=
  ∀ (i : Instr) (s : State),
    exec i s = .next { s with regs := (execute Config.params i s.regs s.inItBlock).regs,
                              cfChanged := (execute Config.params i s.regs s.inItBlock).cfChanged }

/-! ### Register access -/

/-- R30: the operand read by index; PC reads as the stored value plus 4 modulo 2^32, no bit of it cleared. -/
def Obligations.OperandReadByIndex : Prop :=
  ∀ R : Registers,
    (∀ k : Fin 13, R.read Config.params (.gen k) = R.general[k]) ∧
    (R.spSelect = .msp → R.read Config.params .sp = R.spMain) ∧
    (R.spSelect = .psp → R.read Config.params .sp = R.spProcess) ∧
    R.read Config.params .lr = R.lr ∧
    (R.read Config.params .pc).toNat = (R.pc.toNat + 4) % 2 ^ 32

/-- R31's pseudocode, at every value of the parameters: exactly one field changes, the PC loses bit 0 only, and
`cf_changed` is true exactly for PC. -/
def Obligations.InstructionWriteByIndex : Prop :=
  ∀ (p : Params) (R : Registers) (x : Word),
    (∀ k : Fin 13, R.write p (.gen k) x = ⟨{ R with general := R.general.set k x }, false⟩) ∧
    (R.spSelect = .msp → R.write p .sp x = ⟨{ R with spMain := x &&& p.spWriteMask }, false⟩) ∧
    (R.spSelect = .psp → R.write p .sp x = ⟨{ R with spProcess := x &&& p.spWriteMask }, false⟩) ∧
    R.write p .lr x = ⟨{ R with lr := x }, false⟩ ∧
    (∃ y : Word, R.write p .pc x = ⟨{ R with pc := y }, true⟩ ∧ y.toNat = x.toNat / 2 * 2)

/-- What an operand read sees after an instruction write, for every pair of indices and every parameter (10_state.md
section 6): the written index reads as its own rule says, every other index as before. -/
def Obligations.ReadAfterWrite : Prop :=
  ∀ (p : Params) (R : Registers) (r q : Reg) (x : Word),
    (R.write p r x).regs.read p q =
      if q = r then
        match r with
        | .gen _ => x
        | .sp => x &&& p.spWriteMask
        | .lr => x
        | .pc => BitVec.ofNat 32 (x.toNat / 2 * 2) + p.pcReadOffset
      else R.read p q

/-- R23: SP resolves through `sp_select`; a write touches one bank, the other is untouched. -/
def Obligations.StackPointerBanks : Prop :=
  ∀ (p : Params) (R : Registers) (x : Word),
    R.read p .sp = (if R.spSelect = .msp then R.spMain else R.spProcess) ∧
    otherBank (R.write p .sp x).regs = otherBank R ∧
    (R.write p .sp x).regs.spSelect = R.spSelect ∧
    (R.write p .sp x).regs.sp = x &&& p.spWriteMask ∧
    R.read p .sp = (withOtherBank R x).read p .sp

/-- R34: the caller's port reads what it wrote, unchanged; one write changes no field but its own. SP is read and written
through the selected bank and unmasked (10_state.md section 9). That the access to `pc` is raw is the spec's own decision
D9, that the port reaches the two banks and `sp_select` directly its decision D15 (log 23), and the 4 its decision D1
(log 8). -/
def Obligations.CallerPortReadsWhatItWrote : Prop :=
  ∀ (R : Registers) (x : Word),
    (∀ a : WordPort, portRead (portWrite R a x) a = x) ∧
    (∀ a b : WordPort, a ≠ b → a ≠ .sp → b ≠ .sp → portRead (portWrite R a x) b = portRead R b) ∧
    portWrite R .sp x = withSelectedBank R x ∧
    portRead R .sp = (if R.spSelect = .msp then R.spMain else R.spProcess) ∧
    (portWrite R .pc x).read Config.params .pc = x + 4#32 ∧
    (∀ (a b : FlagPort) (f : Bool),
      portReadFlag (portWriteFlag R a f) b = if b = a then f else portReadFlag R b) ∧
    (∀ (a : WordPort) (b : FlagPort), portReadFlag (portWrite R a x) b = portReadFlag R b) ∧
    (∀ (a : WordPort) (b : FlagPort) (f : Bool), portRead (portWriteFlag R b f) a = portRead R a) ∧
    (∀ y : SpSelect, portReadSelect (portWriteSelect R y) = y ∧
      (∀ a : WordPort, a ≠ .sp → portRead (portWriteSelect R y) a = portRead R a) ∧
      (∀ b : FlagPort, portReadFlag (portWriteSelect R y) b = portReadFlag R b)) ∧
    (∀ a : WordPort, portReadSelect (portWrite R a x) = portReadSelect R) ∧
    (∀ (b : FlagPort) (f : Bool), portReadSelect (portWriteFlag R b f) = portReadSelect R)

/-! ### The ALU and the shifter -/

/-- R80: the unbounded sum, narrowed; carry out is bit 32; overflow compares the signs. -/
def Obligations.AddWithCarryOutcome : Prop :=
  ∀ (x y : Word) (cin : Bool),
    (addWithCarry x y cin).result.toNat = (x.toNat + y.toNat + cin.toNat) % 2 ^ 32 ∧
    ((addWithCarry x y cin).carryOut = true ↔ 2 ^ 32 ≤ x.toNat + y.toNat + cin.toNat) ∧
    ((addWithCarry x y cin).overflow = true ↔
      x.getLsbD 31 = y.getLsbD 31 ∧ (addWithCarry x y cin).result.getLsbD 31 ≠ x.getLsbD 31)

/-- The equivalent statement of overflow that 40_primitives.md section 1 derives: the unbounded signed sum is not the
signed value of the result. -/
def Obligations.OverflowIsSignedOverflow : Prop :=
  ∀ (x y : Word) (cin : Bool),
    (addWithCarry x y cin).overflow = true ↔ x.toInt + y.toInt + cin.toNat ≠ (addWithCarry x y cin).result.toInt

/-- The table that ends 43_sub.md, which the spec derives: the outcomes of `a - b` by case. -/
def Obligations.SubtractionOutcomesByCase : Prop :=
  ∀ a b : Word,
    (a = b → addWithCarry a (~~~b) true = ⟨0#32, true, false⟩) ∧
    (b.toNat < a.toNat → (addWithCarry a (~~~b) true).result.toNat = a.toNat - b.toNat ∧
      (addWithCarry a (~~~b) true).result ≠ 0#32 ∧ (addWithCarry a (~~~b) true).carryOut = true) ∧
    (a.toNat < b.toNat → (addWithCarry a (~~~b) true).result.toNat = 2 ^ 32 + a.toNat - b.toNat ∧
      (addWithCarry a (~~~b) true).result ≠ 0#32 ∧ (addWithCarry a (~~~b) true).carryOut = false) ∧
    (b = 0#32 → addWithCarry a (~~~b) true = ⟨a, true, false⟩) ∧
    (a = 0#32 → b ≠ 0#32 → (addWithCarry a (~~~b) true).carryOut = false ∧
      ((addWithCarry a (~~~b) true).overflow = true ↔ b = 0x80000000#32)) ∧
    ((addWithCarry a (~~~b) true).overflow = true ↔
      a.msb ≠ b.msb ∧ (addWithCarry a (~~~b) true).result.msb ≠ a.msb)

/-- R84, R86, R87: the shifter by case of the amount; C1 of 90_conflicts.md decides the carry of a left shift by 32. -/
def Obligations.ShiftWithCarryOutcome : Prop :=
  ∀ (x : Word) (n : Nat) (cin : Bool),
    (∀ kind : ShiftKind, n = 0 → shiftWithCarryOut x kind n cin = ⟨x, cin⟩) ∧
    (1 ≤ n → n ≤ 32 → shiftWithCarryOut x .lsl n cin = ⟨x <<< n, x.getLsbD (32 - n)⟩) ∧
    (1 ≤ n → n ≤ 32 → shiftWithCarryOut x .lsr n cin = ⟨x >>> n, x.getLsbD (n - 1)⟩) ∧
    (n = 32 → shiftWithCarryOut x .lsl n cin = ⟨0#32, x.getLsbD 0⟩ ∧
      shiftWithCarryOut x .lsr n cin = ⟨0#32, x.msb⟩) ∧
    (∀ kind : ShiftKind, 33 ≤ n → shiftWithCarryOut x kind n cin = ⟨0#32, false⟩)

/-- The uniform restatement that 40_primitives.md section 2 derives for every amount of at least 1: the carry is bit 32 of
the unbounded product, or bit 0 of the quotient one place short; the result is the product or the quotient narrowed. -/
def Obligations.ShiftCarryUniform : Prop :=
  ∀ (x : Word) (n : Nat) (cin : Bool), 1 ≤ n →
    (shiftWithCarryOut x .lsl n cin).carryOut = (x.toNat * 2 ^ n).testBit 32 ∧
    (shiftWithCarryOut x .lsl n cin).result.toNat = x.toNat * 2 ^ n % 2 ^ 32 ∧
    (shiftWithCarryOut x .lsr n cin).carryOut = (x.toNat / 2 ^ (n - 1)).testBit 0 ∧
    (shiftWithCarryOut x .lsr n cin).result.toNat = x.toNat / 2 ^ n

/-! ### Flags -/

/-- The flag commit (40_primitives.md section 3): a policy that resolves to true writes N and Z of the result, C as given,
and V where one is given; a policy that resolves to false leaves every flag. -/
def Obligations.FlagCommitFollowsPolicy : Prop :=
  ∀ (policy : SetFlags) (it : Bool) (result : Word) (c : Bool) (vOpt : Option Bool) (f : Flags),
    (policy = .always ∨ (policy = .notIt ∧ it = false) →
      commitFlags policy it result c vOpt f =
        { n := result.getLsbD 31, z := decide (result.toNat = 0), c := c,
          v := match vOpt with
            | some v => v
            | none => f.v }) ∧
    (policy = .never ∨ (policy = .notIt ∧ it = true) → commitFlags policy it result c vOpt f = f)

/-- Outside an IT block, N and Z after a flag-setting instruction are those of the value its destination then holds: the
value committed to the flags and the value stored are the same 32 bits (40_primitives.md section 3). -/
def Obligations.FlagsDescribeTheStoredValue : Prop :=
  ∀ (i : Instr) (s t : State), i.members.setflags = .notIt → s.inItBlock = false → exec i s = .next t →
    t.regs.flags.n = (t.regs.read Config.params i.members.rd).msb ∧
    t.regs.flags.z = decide (t.regs.read Config.params i.members.rd = 0#32)

/-- `in_it_block` gates the flags only: inside an IT block every instruction does to the registers what it does outside,
and no flag changes (40_primitives.md section 3). -/
def Obligations.ItBlockGatesFlagsOnly : Prop :=
  ∀ (p : Params) (i : Instr) (R : Registers),
    execute p i R true = ⟨(execute p i R false).regs.setFlags R.flags, (execute p i R false).cfChanged⟩

/-- No instruction reads N, Z or V, and C is read only by the shifts, for their carry (10_state.md section 7): two runs
from registers that differ in the flags alone differ in the flags alone, and where the flags are committed they agree on
N and Z, on C if it agreed before or the instruction is no shift, and on V if it is no shift; a shift passes each run's
own V on. -/
def Obligations.FlagsAreReadOnlyAsShiftCarry : Prop :=
  ∀ (p : Params) (i : Instr) (R : Registers) (it : Bool) (f : Flags),
    (execute p i (R.setFlags f) it).cfChanged = (execute p i R it).cfChanged ∧
    (execute p i (R.setFlags f) it).regs.setFlags R.flags = (execute p i R it).regs.setFlags R.flags ∧
    (i.members.setflags = .notIt → it = false →
      (execute p i (R.setFlags f) it).regs.flags.n = (execute p i R it).regs.flags.n ∧
      (execute p i (R.setFlags f) it).regs.flags.z = (execute p i R it).regs.flags.z ∧
      (f.c = R.flags.c ∨ i.tag ∉ [Variant.lslI, .lsrI, .lslR, .lsrR] →
        (execute p i (R.setFlags f) it).regs.flags.c = (execute p i R it).regs.flags.c) ∧
      (i.tag ∉ [Variant.lslI, .lsrI, .lslR, .lsrR] →
        (execute p i (R.setFlags f) it).regs.flags.v = (execute p i R it).regs.flags.v) ∧
      (i.tag ∈ [Variant.lslI, .lsrI, .lslR, .lsrR] →
        (execute p i (R.setFlags f) it).regs.flags.v = f.v ∧ (execute p i R it).regs.flags.v = R.flags.v))

/-- The unselected bank can neither be changed nor learned from: replacing it before an Execute is the same as replacing
it after (10_state.md section 3), at every value of the parameters. -/
def Obligations.UnselectedBankIsInvisible : Prop :=
  ∀ (p : Params) (i : Instr) (R : Registers) (it : Bool) (x : Word),
    execute p i (withOtherBank R x) it =
      ⟨withOtherBank (execute p i R it).regs x, (execute p i R it).cfChanged⟩

/-! ### The ADD family -/

/-- R121: ADD_LO. -/
def Obligations.AddLowRegisters : Prop :=
  ∀ (s : State) (rd rn rm : LowReg),
    exec (.addLo rd rn rm) s =
      .next (afterLow s rd (lowValue s.regs rn + lowValue s.regs rm) (addFlags (lowValue s.regs rn) (lowValue s.regs rm)))

/-- R122: ADD_I3, the immediate zero-extended. -/
def Obligations.AddImmediate3 : Prop :=
  ∀ (s : State) (rd rn : LowReg) (imm : BitVec 3),
    exec (.addI3 rd rn imm) s =
      .next (afterLow s rd (lowValue s.regs rn + BitVec.ofNat 32 imm.toNat)
        (addFlags (lowValue s.regs rn) (BitVec.ofNat 32 imm.toNat)))

/-- R123: ADD_I8, the immediate zero-extended. -/
def Obligations.AddImmediate8 : Prop :=
  ∀ (s : State) (rdn : LowReg) (imm : BitVec 8),
    exec (.addI8 rdn imm) s =
      .next (afterLow s rdn (lowValue s.regs rdn + BitVec.ofNat 32 imm.toNat)
        (addFlags (lowValue s.regs rdn) (BitVec.ofNat 32 imm.toNat)))

/-- R124: ADD_HI, each kind of destination; flags never change. -/
def Obligations.AddHighRegister : Prop :=
  ∀ (s : State) (rm : Reg),
    (∀ k : Fin 13, exec (.addHi (.gen k) rm) s =
      .next { s with
        regs := { s.regs with general := s.regs.general.set k (s.regs.general[k] + s.regs.read Config.params rm) }
        cfChanged := false }) ∧
    exec (.addHi .lr rm) s =
      .next { s with regs := { s.regs with lr := s.regs.lr + s.regs.read Config.params rm }, cfChanged := false } ∧
    exec (.addHi .pc rm) s =
      .next { s with
        regs := { s.regs with pc := (s.regs.pc + 4#32 + s.regs.read Config.params rm) &&& 0xFFFFFFFE#32 }
        cfChanged := true }

/-- R125: ADD_RD_SP, each kind of destination; neither bank and no flag changes. -/
def Obligations.AddStackPointerToRegister : Prop :=
  ∀ (s : State) (sp : Word), sp = (if s.regs.spSelect = .msp then s.regs.spMain else s.regs.spProcess) →
    (∀ k : Fin 13, exec (.addRdSp (.gen k)) s =
      .next { s with
        regs := { s.regs with general := s.regs.general.set k (sp + s.regs.general[k]) }
        cfChanged := false }) ∧
    exec (.addRdSp .lr) s =
      .next { s with regs := { s.regs with lr := sp + s.regs.lr }, cfChanged := false } ∧
    exec (.addRdSp .pc) s =
      .next { s with regs := { s.regs with pc := (sp + (s.regs.pc + 4#32)) &&& 0xFFFFFFFE#32 }, cfChanged := true }

/-- R126: ADD_SP_SP at every value of `SP_WRITE_MASK` and `PC_READ_OFFSET`: only the selected bank changes. -/
def Obligations.AddToStackPointer : Prop :=
  ∀ (p : Params) (R : Registers) (it : Bool) (rm : Reg),
    execute p (.addSpSp rm) R it =
      ⟨withSelectedBank R (((if R.spSelect = .msp then R.spMain else R.spProcess) + R.read p rm) &&& p.spWriteMask), false⟩

/-- ADD_SP_SP on the machine, with `SP_WRITE_MASK = 0xFFFFFFFF`, which is the spec's own decision D8 (log 9): all 32 bits
of the sum are stored (42_add.md section 3). -/
def Obligations.AddToStackPointerKeepsAllBits : Prop :=
  ∀ (s : State) (rm : Reg),
    exec (.addSpSp rm) s =
      .next { s with
        regs := withSelectedBank s.regs
          ((if s.regs.spSelect = .msp then s.regs.spMain else s.regs.spProcess) + s.regs.read Config.params rm)
        cfChanged := false }

/-- The alternative of decision D8: with `SP_WRITE_MASK = 0xFFFFFFFC` every ADD_SP_SP leaves a multiple of 4 in the
selected bank (92_eei_decisions.md D8). -/
def Obligations.AlignedStackMaskAlignsStackPointer : Prop :=
  ∀ (p : Params) (R : Registers) (it : Bool) (rm : Reg), p.spWriteMask = 0xFFFFFFFC#32 →
    (execute p (.addSpSp rm) R it).regs.sp.toNat % 4 = 0

/-- No word decodes to an ADD_HI or an ADD_RD_SP with destination SP; given such a value all the same, Execute follows the
generic rule and does what ADD_SP_SP does (92_eei_decisions.md D16; log 13). -/
def Obligations.UnreachableStackDestinationsFollowGenericRule : Prop :=
  ∀ (s : State) (rm : Reg),
    exec (.addHi .sp rm) s = exec (.addSpSp rm) s ∧ exec (.addRdSp .sp) s = exec (.addSpSp .sp) s

/-- R127: control is transferred only by ADD_HI and ADD_RD_SP with destination PC, to the sum with bit 0 cleared, PC
operands read as `pc + 4`; no target is rejected, and `lr` changes only as the explicit destination. -/
def Obligations.ControlTransferOnlyByAddToPc : Prop :=
  ∀ (i : Instr) (s : State), ∃ t : State, exec i s = .next t ∧
    (t.cfChanged = true ↔ i = .addRdSp .pc ∨ ∃ rm : Reg, i = .addHi .pc rm) ∧
    (t.cfChanged = false → t.regs.pc = s.regs.pc) ∧
    (i.members.rd ≠ .lr → t.regs.lr = s.regs.lr) ∧
    (∀ rm : Reg, i = .addHi .pc rm →
      t.regs.pc.toNat = ((s.regs.pc.toNat + 4 + (s.regs.read Config.params rm).toNat) % 2 ^ 32) / 2 * 2) ∧
    (i = .addRdSp .pc →
      t.regs.pc.toNat = ((s.regs.pc.toNat + 4 + (s.regs.read Config.params .sp).toNat) % 2 ^ 32) / 2 * 2)

/-- What each variant can write, for decode-reachable values (10_state.md section 2): SP only by ADD_SP_SP, PC only by
ADD_HI and ADD_RD_SP, r8 to r12 and LR only by those two, the flags only by the eight others. -/
def Obligations.ReachOfVariants : Prop :=
  ∀ (w : HWord) (i : Instr) (s t : State), decode w = .variant i → exec i s = .next t →
    (t.regs.spMain ≠ s.regs.spMain ∨ t.regs.spProcess ≠ s.regs.spProcess → i.tag = .addSpSp) ∧
    (t.regs.pc ≠ s.regs.pc ∨ t.regs.lr ≠ s.regs.lr → i.tag = .addHi ∨ i.tag = .addRdSp) ∧
    (∀ k : Fin 13, 8 ≤ k.val → t.regs.general[k] ≠ s.regs.general[k] → i.tag = .addHi ∨ i.tag = .addRdSp) ∧
    (t.regs.flags ≠ s.regs.flags → i.tag ∉ [Variant.addSpSp, .addRdSp, .addHi])

/-! ### The SUB family -/

/-- R140: SUB_LO; C is no borrow, V the signed overflow of the difference. -/
def Obligations.SubLowRegisters : Prop :=
  ∀ (s : State) (rd rn rm : LowReg),
    exec (.subLo rd rn rm) s =
      .next (afterLow s rd (lowValue s.regs rn - lowValue s.regs rm) (subFlags (lowValue s.regs rn) (lowValue s.regs rm)))

/-! ### The shift family -/

/-- R152: LSL_I; a field of 0 is a shift by 0 and keeps C; V is kept. -/
def Obligations.ShiftLeftImmediate : Prop :=
  ∀ (s : State) (rd rm : LowReg) (imm : BitVec 5),
    exec (.lslI rd rm imm) s =
      .next (afterLow s rd (lowValue s.regs rm <<< imm.toNat)
        (shiftFlags (lowValue s.regs rm <<< imm.toNat)
          (if imm.toNat = 0 then s.regs.flags.c else (lowValue s.regs rm).getLsbD (32 - imm.toNat)) s.regs.flags))

/-- R153: LSR_I; a field of 0 is a shift by 32: result 0 and C bit 31; V is kept. -/
def Obligations.ShiftRightImmediate : Prop :=
  ∀ (s : State) (rd rm : LowReg) (imm : BitVec 5),
    (imm.toNat ≠ 0 → exec (.lsrI rd rm imm) s =
      .next (afterLow s rd (lowValue s.regs rm >>> imm.toNat)
        (shiftFlags (lowValue s.regs rm >>> imm.toNat) ((lowValue s.regs rm).getLsbD (imm.toNat - 1)) s.regs.flags))) ∧
    (imm.toNat = 0 → exec (.lsrI rd rm imm) s =
      .next (afterLow s rd 0#32 (shiftFlags 0#32 (lowValue s.regs rm).msb s.regs.flags)))

/-- R154: LSL_R; the amount is the low byte of Rm; amount 0 keeps C, 32 puts out bit 0, 33 and more nothing. -/
def Obligations.ShiftLeftRegister : Prop :=
  ∀ (s : State) (rdn rm : LowReg) (n : Nat), n = (lowValue s.regs rm).toNat % 256 →
    exec (.lslR rdn rm) s =
      .next (afterLow s rdn (lowValue s.regs rdn <<< n)
        (shiftFlags (lowValue s.regs rdn <<< n)
          (if n = 0 then s.regs.flags.c else if n ≤ 32 then (lowValue s.regs rdn).getLsbD (32 - n) else false)
          s.regs.flags))

/-- R155: LSR_R; the amount is the low byte of Rm; amount 0 keeps C, 32 puts out bit 31, 33 and more nothing. -/
def Obligations.ShiftRightRegister : Prop :=
  ∀ (s : State) (rdn rm : LowReg) (n : Nat), n = (lowValue s.regs rm).toNat % 256 →
    exec (.lsrR rdn rm) s =
      .next (afterLow s rdn (lowValue s.regs rdn >>> n)
        (shiftFlags (lowValue s.regs rdn >>> n)
          (if n = 0 then s.regs.flags.c else if n ≤ 32 then (lowValue s.regs rdn).getLsbD (n - 1) else false)
          s.regs.flags))

/-! ### Decode and encode -/

/-- Decode undoes encode on every well-formed value, every operand at every value its field admits (41_decode.md
section 5). -/
def Obligations.DecodeEncode : Prop :=
  ∀ i : Instr, i.wf = true → decode (encode i) = .variant i

/-- Decode yields well-formed values only and loses no bit of the word: encode gives the word back (41_decode.md
section 5). -/
def Obligations.EncodeDecode : Prop :=
  ∀ (w : HWord) (i : Instr), decode w = .variant i → i.wf = true ∧ encode i = w

/-- R67: after priority resolution at most one entry identifies a word. -/
def Obligations.IdentifyIsExclusive : Prop :=
  ∀ (w : HWord) (u v : Variant), identify u w = true → identify v w = true → u = v

/-- R100, R114: Decode answers the extracted value of the entry of least priority number that raw-matches the word, which
is the one entry that identifies it, and the failure with the word exactly when no entry raw-matches. -/
def Obligations.DecodeTakesTheIdentifiedEntry : Prop :=
  ∀ w : HWord,
    (∀ v : Variant, identify v w = true ↔ ∃ i : Instr, decode w = .variant i ∧ i.tag = v) ∧
    (∀ v : Variant, rawMatch v w = true → (∀ u : Variant, u.priority < v.priority → rawMatch u w = false) →
      decode w = .variant (extract v w)) ∧
    (∀ u : HWord, decode w = .unrecognized u ↔ u = w ∧ ∀ v : Variant, rawMatch v w = false)

/-- R103 to R113: the members Decode extracts, in numbers, for every word each entry identifies. -/
def Obligations.ExtractedFields : Prop :=
  ∀ w : HWord,
    (identify .addSpSp w = true → fields (decode w) = some (13, some 13, some (w.toNat / 8 % 16), none, .never)) ∧
    (identify .addRdSp w = true → fields (decode w) =
      some (w.toNat / 128 % 2 * 8 + w.toNat % 8, some 13, some (w.toNat / 128 % 2 * 8 + w.toNat % 8), none, .never)) ∧
    (identify .addHi w = true → fields (decode w) =
      some (w.toNat / 128 % 2 * 8 + w.toNat % 8, some (w.toNat / 128 % 2 * 8 + w.toNat % 8), some (w.toNat / 8 % 16), none,
        .never)) ∧
    (identify .addLo w = true → fields (decode w) =
      some (w.toNat % 8, some (w.toNat / 8 % 8), some (w.toNat / 64 % 8), none, .notIt)) ∧
    (identify .subLo w = true → fields (decode w) =
      some (w.toNat % 8, some (w.toNat / 8 % 8), some (w.toNat / 64 % 8), none, .notIt)) ∧
    (identify .addI3 w = true → fields (decode w) =
      some (w.toNat % 8, some (w.toNat / 8 % 8), none, some (w.toNat / 64 % 8), .notIt)) ∧
    (identify .addI8 w = true → fields (decode w) =
      some (w.toNat / 256 % 8, some (w.toNat / 256 % 8), none, some (w.toNat % 256), .notIt)) ∧
    (identify .lslI w = true → fields (decode w) =
      some (w.toNat % 8, none, some (w.toNat / 8 % 8), some (w.toNat / 64 % 32), .notIt)) ∧
    (identify .lsrI w = true → fields (decode w) =
      some (w.toNat % 8, none, some (w.toNat / 8 % 8), some (w.toNat / 64 % 32), .notIt)) ∧
    (identify .lslR w = true → fields (decode w) =
      some (w.toNat % 8, some (w.toNat % 8), some (w.toNat / 8 % 8), none, .notIt)) ∧
    (identify .lsrR w = true → fields (decode w) =
      some (w.toNat % 8, some (w.toNat % 8), some (w.toNat / 8 % 8), none, .notIt))

/-- The recognized words are exactly the five ranges of 30_encoding.md section 2. -/
def Obligations.RecognizedWordsAreFiveRanges : Prop :=
  ∀ w : HWord, (∃ i : Instr, decode w = .variant i) ↔ RecognizedRange w

/-- Which words more than one entry raw-matches, and which entry takes them (30_encoding.md section 2): only the three ADD
forms overlap, and among them SP as destination goes before SP as source before the generic form. -/
def Obligations.RawMatchOverlaps : Prop :=
  (∀ (w : HWord) (u v : Variant), u ≠ v → rawMatch u w = true → rawMatch v w = true →
    u ∈ [Variant.addSpSp, .addRdSp, .addHi] ∧ v ∈ [Variant.addSpSp, .addRdSp, .addHi] ∧
      0x4400 ≤ w.toNat ∧ w.toNat ≤ 0x44FF) ∧
  (∀ w : HWord, rawMatch .addSpSp w = true ↔ ∃ m : Nat, m < 16 ∧ w.toNat = 0x4485 + 8 * m) ∧
  (∀ w : HWord, rawMatch .addRdSp w = true ↔ ∃ d r : Nat, d < 2 ∧ r < 8 ∧ w.toNat = 0x4468 + 0x80 * d + r) ∧
  (∀ w : HWord, rawMatch .addSpSp w = true → identify .addSpSp w = true) ∧
  (∀ w : HWord, rawMatch .addRdSp w = true → (identify .addRdSp w = true ↔ w ≠ 0x44ED#16))

/-- Words written out from the spec's encodings decode to the instruction they stand for (41_decode.md section 3). -/
def Obligations.SampleWordsDecode : Prop :=
  decode 0x44FD#16 = .variant (.addSpSp .pc) ∧
  decode 0x44E8#16 = .variant (.addRdSp (.gen 8)) ∧
  decode 0x44F7#16 = .variant (.addHi .pc .lr) ∧
  decode 0x1888#16 = .variant (.addLo 0 1 2) ∧
  decode 0x1A88#16 = .variant (.subLo 0 1 2) ∧
  decode 0x1C48#16 = .variant (.addI3 0 1 1#3) ∧
  decode 0x32AB#16 = .variant (.addI8 2 171#8) ∧
  decode 0x0088#16 = .variant (.lslI 0 1 2#5) ∧
  decode 0x0888#16 = .variant (.lsrI 0 1 2#5) ∧
  decode 0x4088#16 = .variant (.lslR 0 1) ∧
  decode 0x40C8#16 = .variant (.lsrR 0 1) ∧
  decode 0x4770#16 = .unrecognized 0x4770#16

/-- The reference caller's byte view: the two bytes of a word, low byte first, decode as the word does and leave the rest
(20_memory.md section 2, decision D19; log 17). -/
def Obligations.BytesDecodeLittleEndian : Prop :=
  ∀ (w : HWord) (rest : List Byte),
    bytesOfWord w = [BitVec.ofNat 8 (w.toNat % 256), BitVec.ofNat 8 (w.toNat / 256)] ∧
    (∀ i : Instr, decodeBytes (bytesOfWord w ++ rest) = .variant i rest ↔ decode w = .variant i) ∧
    (decodeBytes (bytesOfWord w ++ rest) = .unrecognized w rest ↔ decode w = .unrecognized w)

/-! ### The core's call and the reference caller -/

/-- A call of the core faults exactly on the words outside the five ranges, with the raw word, and no instruction raises
anything (60_exceptions.md section 1). That `step` is the reference caller's, so that it faults on the program's word at
`pc` and nowhere else, is the spec's own decision D12 and the model's choice (70_reset_and_hazards.md section 5; log 3). -/
def Obligations.OnlyFaultIsUnrecognizedWord : Prop :=
  (∀ (w : HWord) (s : State) (f : Fault),
    coreCall w s = .fault f ↔ ¬RecognizedRange w ∧ f = .unrecognizedInstruction w) ∧
  (∀ (i : Instr) (s : State) (f : Fault), exec i s ≠ .fault f) ∧
  (∀ (s : State) (f : Fault),
    step s = .fault f ↔ ∃ w : HWord, s.prog.lookup s.regs.pc.toNat = some w ∧ ¬RecognizedRange w ∧
      f = .unrecognizedInstruction w)

/-- A step is the reference caller's step (70_reset_and_hazards.md section 5, the spec's own decision D12; log 4, log 5): it
halts outside the program, faults on an unrecognized word, and else runs the decoded instruction and adds 2 to `pc`
unless control was transferred. -/
def Obligations.StepRunsDecodedInstruction : Prop :=
  ∀ s : State,
    (s.prog.lookup s.regs.pc.toNat = none → step s = .refused .halted) ∧
    (∀ w : HWord, s.prog.lookup s.regs.pc.toNat = some w →
      (decode w = .unrecognized w → step s = .fault (.unrecognizedInstruction w)) ∧
      (∀ (i : Instr) (t : State), decode w = .variant i → exec i s = .next t →
        step s = .next (if t.cfChanged then t else { t with regs := { t.regs with pc := t.regs.pc + 2#32 } })))

/-- The core never advances `pc` (10_state.md section 5); the caller adds 2 after an Execute that wrote no `pc`, and nothing after one that
did, whatever value it wrote (the 2 is the spec's own decision D12; log 5). -/
def Obligations.CoreNeverAdvancesPc : Prop :=
  ∀ (i : Instr) (s t : State), exec i s = .next t →
    (t.cfChanged = false → t.regs.pc = s.regs.pc ∧ (advance t).regs.pc.toNat = (s.regs.pc.toNat + 2) % 2 ^ 32) ∧
    (t.cfChanged = true → advance t = t ∧
      ∃ v : Word, t.regs = { s.regs with pc := v } ∧ v.getLsbD 0 = false)

/-- A run ends at the first halt or fault and stays in the state it met; more fuel changes nothing after the end
(70_reset_and_hazards.md section 5; 60_exceptions.md section 1). -/
def Obligations.RunEndsAtFirstHaltOrFault : Prop :=
  ∀ (n m : Nat) (s t : State),
    (refRun n s = .halted t → refRun (n + m) s = .halted t ∧ t.prog.lookup t.regs.pc.toNat = none) ∧
    (∀ w : HWord, refRun n s = .faulted w t →
      refRun (n + m) s = .faulted w t ∧ t.prog.lookup t.regs.pc.toNat = some w ∧ ¬RecognizedRange w) ∧
    (refRun n s = .running t → refRun (n + m) s = refRun m t)

/-- A run is never refused for want of a meaning. -/
def Obligations.RunIsNeverRefused : Prop :=
  ∀ (n : Nat) (s t : State) (r : Refusal), refRun n s ≠ .refused r t

/-- `withFetchWord` puts the word where the next step fetches and changes nothing else but bit 0 of `pc`, for an odd `pc`
too (the model's own convention for loading a program, log 7; 70_reset_and_hazards.md section 5). -/
def Obligations.FetchWordIsRunNext : Prop :=
  ∀ (s : State) (w : HWord), s.prog.wf = true →
    fetch (s.withFetchWord 16 w.toNat) = some w ∧
    (s.withFetchWord 16 w.toNat).prog.wf = true ∧
    (PcEven s → (s.withFetchWord 16 w.toNat).regs = s.regs) ∧
    (∃ pc : Word, pc.toNat = s.regs.pc.toNat / 2 * 2 ∧
      (s.withFetchWord 16 w.toNat).regs = { s.regs with pc := pc }) ∧
    (s.withFetchWord 16 w.toNat).inItBlock = s.inItBlock ∧
    (s.withFetchWord 16 w.toNat).cfChanged = s.cfChanged ∧
    (∀ a : Nat, a ≠ s.regs.pc.toNat / 2 * 2 → (s.withFetchWord 16 w.toNat).prog.lookup a = s.prog.lookup a) ∧
    (∀ i : Instr, decode w = .variant i → ∃ t : State, step (s.withFetchWord 16 w.toNat) = .next t)
end

