-- ==== Sys2Proof/Laws/Alu.lean ====
section
/-!
SUPPORT. The primitives in terms of bit-vector arithmetic, and the flag commit by the value of the policy.
-/

namespace Sys2Proof.Machine

@[simp] theorem addWithCarry_result_add (x y : Word) : (addWithCarry x y false).result = x + y := by
  apply BitVec.eq_of_toNat_eq; simp [addWithCarry]

theorem addWithCarry_result_carry (x y : Word) : (addWithCarry x y true).result = x + y + 1#32 := by
  apply BitVec.eq_of_toNat_eq; simp [addWithCarry, BitVec.toNat_add]

@[simp] theorem shiftWithCarryOut_zero (x : Word) (kind : ShiftKind) (c : Bool) : shiftWithCarryOut x kind 0 c = ⟨x, c⟩ := by
  simp [shiftWithCarryOut]

theorem shiftWithCarryOut_lsl_result (x : Word) (n : Nat) (c : Bool) : (shiftWithCarryOut x .lsl n c).result = x <<< n := by
  apply BitVec.eq_of_toNat_eq
  simp only [shiftWithCarryOut]
  split
  · simp_all
  · split
    · simp [Nat.shiftLeft_eq]
    · rename_i h1 h2
      simp [BitVec.shiftLeft_eq_zero (x := x) (by omega : 32 ≤ n)]

theorem shiftWithCarryOut_lsr_result (x : Word) (n : Nat) (c : Bool) : (shiftWithCarryOut x .lsr n c).result = x >>> n := by
  apply BitVec.eq_of_toNat_eq
  simp only [shiftWithCarryOut]
  split
  · simp_all
  · split
    · have h : x.toNat / 2 ^ n < 2 ^ 32 := Nat.lt_of_le_of_lt (Nat.div_le_self _ _) x.isLt
      simp only [BitVec.toNat_ofNat, BitVec.toNat_ushiftRight, Nat.shiftRight_eq_div_pow]
      exact Nat.mod_eq_of_lt h
    · rename_i h1 h2
      simp [BitVec.ushiftRight_eq_zero (x := x) (by omega : 32 ≤ n)]

/-! ### Flag commit -/

section
variable (it : Bool) (result : Word) (c : Bool) (vOpt : Option Bool) (f : Flags)

@[simp] theorem commitFlags_never : commitFlags .never it result c vOpt f = f := rfl

@[simp] theorem commitFlags_notIt_inside : commitFlags .notIt true result c vOpt f = f := rfl

@[simp] theorem commitFlags_notIt_outside :
    commitFlags .notIt false result c vOpt f = ⟨result.msb, decide (result = 0#32), c, vOpt.getD f.v⟩ := rfl

@[simp] theorem commitFlags_always :
    commitFlags .always it result c vOpt f = ⟨result.msb, decide (result = 0#32), c, vOpt.getD f.v⟩ := rfl

/-- Without a V to write, V is kept. -/
@[simp] theorem commitFlags_none_v (policy : SetFlags) : (commitFlags policy it result c none f).v = f.v := by
  unfold commitFlags; split <;> rfl

end

end Sys2Proof.Machine
end

