-- ==== Sys2Proof/Laws/State.lean ====
section
/-!
SUPPORT. One lemma for each field of the registers and of the state under each named update: no later proof unfolds a
record update.
-/

namespace Sys2Proof.Machine

@[simp] theorem Registers.setGeneral_general (R : Registers) (i : Fin 13) (v : Word) : (R.setGeneral i v).general = R.general.set i v := rfl
@[simp] theorem Registers.setGeneral_pc (R : Registers) (i : Fin 13) (v : Word) : (R.setGeneral i v).pc = R.pc := rfl
@[simp] theorem Registers.setGeneral_lr (R : Registers) (i : Fin 13) (v : Word) : (R.setGeneral i v).lr = R.lr := rfl
@[simp] theorem Registers.setGeneral_spMain (R : Registers) (i : Fin 13) (v : Word) : (R.setGeneral i v).spMain = R.spMain := rfl
@[simp] theorem Registers.setGeneral_spProcess (R : Registers) (i : Fin 13) (v : Word) : (R.setGeneral i v).spProcess = R.spProcess := rfl
@[simp] theorem Registers.setGeneral_spSelect (R : Registers) (i : Fin 13) (v : Word) : (R.setGeneral i v).spSelect = R.spSelect := rfl
@[simp] theorem Registers.setGeneral_flags (R : Registers) (i : Fin 13) (v : Word) : (R.setGeneral i v).flags = R.flags := rfl

@[simp] theorem Registers.setPc_general (R : Registers) (v : Word) : (R.setPc v).general = R.general := rfl
@[simp] theorem Registers.setPc_pc (R : Registers) (v : Word) : (R.setPc v).pc = v := rfl
@[simp] theorem Registers.setPc_lr (R : Registers) (v : Word) : (R.setPc v).lr = R.lr := rfl
@[simp] theorem Registers.setPc_spMain (R : Registers) (v : Word) : (R.setPc v).spMain = R.spMain := rfl
@[simp] theorem Registers.setPc_spProcess (R : Registers) (v : Word) : (R.setPc v).spProcess = R.spProcess := rfl
@[simp] theorem Registers.setPc_spSelect (R : Registers) (v : Word) : (R.setPc v).spSelect = R.spSelect := rfl
@[simp] theorem Registers.setPc_flags (R : Registers) (v : Word) : (R.setPc v).flags = R.flags := rfl

@[simp] theorem Registers.setLr_general (R : Registers) (v : Word) : (R.setLr v).general = R.general := rfl
@[simp] theorem Registers.setLr_pc (R : Registers) (v : Word) : (R.setLr v).pc = R.pc := rfl
@[simp] theorem Registers.setLr_lr (R : Registers) (v : Word) : (R.setLr v).lr = v := rfl
@[simp] theorem Registers.setLr_spMain (R : Registers) (v : Word) : (R.setLr v).spMain = R.spMain := rfl
@[simp] theorem Registers.setLr_spProcess (R : Registers) (v : Word) : (R.setLr v).spProcess = R.spProcess := rfl
@[simp] theorem Registers.setLr_spSelect (R : Registers) (v : Word) : (R.setLr v).spSelect = R.spSelect := rfl
@[simp] theorem Registers.setLr_flags (R : Registers) (v : Word) : (R.setLr v).flags = R.flags := rfl

@[simp] theorem Registers.setSpMain_general (R : Registers) (v : Word) : (R.setSpMain v).general = R.general := rfl
@[simp] theorem Registers.setSpMain_pc (R : Registers) (v : Word) : (R.setSpMain v).pc = R.pc := rfl
@[simp] theorem Registers.setSpMain_lr (R : Registers) (v : Word) : (R.setSpMain v).lr = R.lr := rfl
@[simp] theorem Registers.setSpMain_spMain (R : Registers) (v : Word) : (R.setSpMain v).spMain = v := rfl
@[simp] theorem Registers.setSpMain_spProcess (R : Registers) (v : Word) : (R.setSpMain v).spProcess = R.spProcess := rfl
@[simp] theorem Registers.setSpMain_spSelect (R : Registers) (v : Word) : (R.setSpMain v).spSelect = R.spSelect := rfl
@[simp] theorem Registers.setSpMain_flags (R : Registers) (v : Word) : (R.setSpMain v).flags = R.flags := rfl

@[simp] theorem Registers.setSpProcess_general (R : Registers) (v : Word) : (R.setSpProcess v).general = R.general := rfl
@[simp] theorem Registers.setSpProcess_pc (R : Registers) (v : Word) : (R.setSpProcess v).pc = R.pc := rfl
@[simp] theorem Registers.setSpProcess_lr (R : Registers) (v : Word) : (R.setSpProcess v).lr = R.lr := rfl
@[simp] theorem Registers.setSpProcess_spMain (R : Registers) (v : Word) : (R.setSpProcess v).spMain = R.spMain := rfl
@[simp] theorem Registers.setSpProcess_spProcess (R : Registers) (v : Word) : (R.setSpProcess v).spProcess = v := rfl
@[simp] theorem Registers.setSpProcess_spSelect (R : Registers) (v : Word) : (R.setSpProcess v).spSelect = R.spSelect := rfl
@[simp] theorem Registers.setSpProcess_flags (R : Registers) (v : Word) : (R.setSpProcess v).flags = R.flags := rfl

@[simp] theorem Registers.setSpSelect_general (R : Registers) (x : SpSelect) : (R.setSpSelect x).general = R.general := rfl
@[simp] theorem Registers.setSpSelect_pc (R : Registers) (x : SpSelect) : (R.setSpSelect x).pc = R.pc := rfl
@[simp] theorem Registers.setSpSelect_lr (R : Registers) (x : SpSelect) : (R.setSpSelect x).lr = R.lr := rfl
@[simp] theorem Registers.setSpSelect_spMain (R : Registers) (x : SpSelect) : (R.setSpSelect x).spMain = R.spMain := rfl
@[simp] theorem Registers.setSpSelect_spProcess (R : Registers) (x : SpSelect) : (R.setSpSelect x).spProcess = R.spProcess := rfl
@[simp] theorem Registers.setSpSelect_spSelect (R : Registers) (x : SpSelect) : (R.setSpSelect x).spSelect = x := rfl
@[simp] theorem Registers.setSpSelect_flags (R : Registers) (x : SpSelect) : (R.setSpSelect x).flags = R.flags := rfl

@[simp] theorem Registers.setFlags_general (R : Registers) (f : Flags) : (R.setFlags f).general = R.general := rfl
@[simp] theorem Registers.setFlags_pc (R : Registers) (f : Flags) : (R.setFlags f).pc = R.pc := rfl
@[simp] theorem Registers.setFlags_lr (R : Registers) (f : Flags) : (R.setFlags f).lr = R.lr := rfl
@[simp] theorem Registers.setFlags_spMain (R : Registers) (f : Flags) : (R.setFlags f).spMain = R.spMain := rfl
@[simp] theorem Registers.setFlags_spProcess (R : Registers) (f : Flags) : (R.setFlags f).spProcess = R.spProcess := rfl
@[simp] theorem Registers.setFlags_spSelect (R : Registers) (f : Flags) : (R.setFlags f).spSelect = R.spSelect := rfl
@[simp] theorem Registers.setFlags_flags (R : Registers) (f : Flags) : (R.setFlags f).flags = f := rfl

@[simp] theorem State.setRegs_regs (s : State) (R : Registers) : (s.setRegs R).regs = R := rfl
@[simp] theorem State.setRegs_inItBlock (s : State) (R : Registers) : (s.setRegs R).inItBlock = s.inItBlock := rfl
@[simp] theorem State.setRegs_cfChanged (s : State) (R : Registers) : (s.setRegs R).cfChanged = s.cfChanged := rfl
@[simp] theorem State.setRegs_prog (s : State) (R : Registers) : (s.setRegs R).prog = s.prog := rfl

@[simp] theorem State.setInItBlock_regs (s : State) (b : Bool) : (s.setInItBlock b).regs = s.regs := rfl
@[simp] theorem State.setInItBlock_inItBlock (s : State) (b : Bool) : (s.setInItBlock b).inItBlock = b := rfl
@[simp] theorem State.setInItBlock_cfChanged (s : State) (b : Bool) : (s.setInItBlock b).cfChanged = s.cfChanged := rfl
@[simp] theorem State.setInItBlock_prog (s : State) (b : Bool) : (s.setInItBlock b).prog = s.prog := rfl

@[simp] theorem State.setCfChanged_regs (s : State) (b : Bool) : (s.setCfChanged b).regs = s.regs := rfl
@[simp] theorem State.setCfChanged_inItBlock (s : State) (b : Bool) : (s.setCfChanged b).inItBlock = s.inItBlock := rfl
@[simp] theorem State.setCfChanged_cfChanged (s : State) (b : Bool) : (s.setCfChanged b).cfChanged = b := rfl
@[simp] theorem State.setCfChanged_prog (s : State) (b : Bool) : (s.setCfChanged b).prog = s.prog := rfl

@[simp] theorem State.setProg_regs (s : State) (p : Program) : (s.setProg p).regs = s.regs := rfl
@[simp] theorem State.setProg_inItBlock (s : State) (p : Program) : (s.setProg p).inItBlock = s.inItBlock := rfl
@[simp] theorem State.setProg_cfChanged (s : State) (p : Program) : (s.setProg p).cfChanged = s.cfChanged := rfl
@[simp] theorem State.setProg_prog (s : State) (p : Program) : (s.setProg p).prog = p := rfl

@[simp] theorem State.init_regs (R : Registers) : (State.init R).regs = R := rfl
@[simp] theorem State.init_inItBlock (R : Registers) : (State.init R).inItBlock = false := rfl
@[simp] theorem State.init_cfChanged (R : Registers) : (State.init R).cfChanged = false := rfl
@[simp] theorem State.init_prog (R : Registers) : (State.init R).prog = [] := rfl

end Sys2Proof.Machine
end

