-- ==== Sys2Proof/Laws/Registers.lean ====
section
/-!
SUPPORT. What the operand read and the instruction write do, case by case (10_state.md R30, R31), and the banked stack
pointer (R23).
-/

namespace Sys2Proof.Machine

/-! ### The selected bank -/

theorem Registers.sp_of_msp {R : Registers} (h : R.spSelect = .msp) : R.sp = R.spMain := by simp [Registers.sp, h]

theorem Registers.sp_of_psp {R : Registers} (h : R.spSelect = .psp) : R.sp = R.spProcess := by simp [Registers.sp, h]

theorem Registers.setSp_of_msp {R : Registers} (h : R.spSelect = .msp) (v : Word) : R.setSp v = R.setSpMain v := by
  simp [Registers.setSp, h]

theorem Registers.setSp_of_psp {R : Registers} (h : R.spSelect = .psp) (v : Word) : R.setSp v = R.setSpProcess v := by
  simp [Registers.setSp, h]

/-- A write of SP is a write of one bank, the one the selector names. -/
theorem Registers.setSp_cases (R : Registers) (v : Word) :
    (R.spSelect = .msp ∧ R.setSp v = R.setSpMain v) ∨ (R.spSelect = .psp ∧ R.setSp v = R.setSpProcess v) := by
  cases h : R.spSelect
  · exact .inl ⟨rfl, Registers.setSp_of_msp h v⟩
  · exact .inr ⟨rfl, Registers.setSp_of_psp h v⟩

@[simp] theorem Registers.setSp_general (R : Registers) (v : Word) : (R.setSp v).general = R.general := by
  obtain ⟨-, h⟩ | ⟨-, h⟩ := R.setSp_cases v <;> rw [h] <;> rfl

@[simp] theorem Registers.setSp_pc (R : Registers) (v : Word) : (R.setSp v).pc = R.pc := by
  obtain ⟨-, h⟩ | ⟨-, h⟩ := R.setSp_cases v <;> rw [h] <;> rfl

@[simp] theorem Registers.setSp_lr (R : Registers) (v : Word) : (R.setSp v).lr = R.lr := by
  obtain ⟨-, h⟩ | ⟨-, h⟩ := R.setSp_cases v <;> rw [h] <;> rfl

@[simp] theorem Registers.setSp_spSelect (R : Registers) (v : Word) : (R.setSp v).spSelect = R.spSelect := by
  obtain ⟨-, h⟩ | ⟨-, h⟩ := R.setSp_cases v <;> rw [h] <;> rfl

@[simp] theorem Registers.setSp_flags (R : Registers) (v : Word) : (R.setSp v).flags = R.flags := by
  obtain ⟨-, h⟩ | ⟨-, h⟩ := R.setSp_cases v <;> rw [h] <;> rfl

@[simp] theorem Registers.setSp_sp (R : Registers) (v : Word) : (R.setSp v).sp = v := by
  obtain ⟨hs, h⟩ | ⟨hs, h⟩ := R.setSp_cases v <;> rw [h] <;> simp [Registers.sp, hs]

/-! ### The general registers -/

@[simp] theorem general_set_same (g : Vector Word 13) (i : Fin 13) (v : Word) : (g.set i v)[i] = v := by simp

theorem general_set_other (g : Vector Word 13) {i k : Fin 13} (h : k ≠ i) (v : Word) : (g.set i v)[k] = g[k] := by
  have hv : i.val ≠ k.val := fun e => h (Fin.ext e.symm)
  simp [hv]

/-! ### Operand read -/

section
variable (p : Params) (R : Registers)

@[simp] theorem Registers.read_gen (i : Fin 13) : R.read p (.gen i) = R.general[i] := rfl
@[simp] theorem Registers.read_sp : R.read p .sp = R.sp := rfl
@[simp] theorem Registers.read_lr : R.read p .lr = R.lr := rfl
@[simp] theorem Registers.read_pc : R.read p .pc = R.pc + p.pcReadOffset := rfl

/-- No operand read sees a flag. -/
@[simp] theorem Registers.read_setFlags (f : Flags) (r : Reg) : (R.setFlags f).read p r = R.read p r := by
  cases r <;> rfl

/-! ### Instruction write -/

@[simp] theorem Registers.write_gen (i : Fin 13) (v : Word) : R.write p (.gen i) v = ⟨R.setGeneral i v, false⟩ := rfl
@[simp] theorem Registers.write_sp (v : Word) : R.write p .sp v = ⟨R.setSp (v &&& p.spWriteMask), false⟩ := rfl
@[simp] theorem Registers.write_lr (v : Word) : R.write p .lr v = ⟨R.setLr v, false⟩ := rfl
@[simp] theorem Registers.write_pc (v : Word) : R.write p .pc v = ⟨R.setPc (clearBit0 v), true⟩ := rfl

/-- A write signals a control transfer iff it names PC. -/
@[simp] theorem Registers.write_cfChanged (r : Reg) (v : Word) : (R.write p r v).cfChanged = decide (r = .pc) := by
  cases r <;> simp

/-- A write touches no flag. -/
@[simp] theorem Registers.write_flags (r : Reg) (v : Word) : (R.write p r v).regs.flags = R.flags := by
  cases r <;> simp

/-- A write never changes the selector. -/
@[simp] theorem Registers.write_spSelect (r : Reg) (v : Word) : (R.write p r v).regs.spSelect = R.spSelect := by
  cases r <;> simp

/-- A write and a change of the flags touch different fields. -/
theorem Registers.write_setFlags (f : Flags) (r : Reg) (v : Word) :
    (R.setFlags f).write p r v = ⟨(R.write p r v).regs.setFlags f, (R.write p r v).cfChanged⟩ := by
  cases r
  case sp => cases h : R.spSelect <;> simp [Registers.setSp, h] <;> rfl
  all_goals rfl

end

/-! ### Bit 0 -/

@[simp] theorem clearBit0_bit0 (v : Word) : (clearBit0 v).getLsbD 0 = false := by simp [clearBit0]

@[simp] theorem clearBit0_getElem0 (v : Word) : (clearBit0 v)[0] = false := clearBit0_bit0 v

theorem clearBit0_of_even {v : Word} (h : v.getLsbD 0 = false) : clearBit0 v = v := by
  apply BitVec.eq_of_getLsbD_eq
  intro k hk
  have hm : (0xFFFFFFFE#32).getLsbD k = decide (k ≠ 0) := by
    have : ∀ j : Fin 32, (0xFFFFFFFE#32).getLsbD j = decide (j.val ≠ 0) := by decide
    exact this ⟨k, hk⟩
  by_cases h0 : k = 0
  · subst h0; simpa [clearBit0] using h
  · simp [clearBit0, BitVec.getLsbD_and, hm, h0]

theorem clearBit0_toNat (v : Word) : (clearBit0 v).toNat = v.toNat / 2 * 2 := by
  have h : clearBit0 v = (v >>> 1) <<< 1 := by
    apply BitVec.eq_of_getLsbD_eq
    intro k hk
    have hm : (0xFFFFFFFE#32).getLsbD k = decide (k ≠ 0) := by
      have : ∀ j : Fin 32, (0xFFFFFFFE#32).getLsbD j = decide (j.val ≠ 0) := by decide
      exact this ⟨k, hk⟩
    by_cases h0 : k = 0
    · subst h0; simp [clearBit0]
    · have h1 : 1 + (k - 1) = k := by omega
      simp [clearBit0, hm, h0, hk, h1]
  rw [h]
  simp [Nat.shiftRight_eq_div_pow, Nat.shiftLeft_eq]
  omega

end Sys2Proof.Machine
end

