-- ==== Sys2Proof/Laws/Execute.lean ====
section
/-!
SUPPORT. Said once: what every Execute does. It writes one result to the destination of the decoded value and commits the
flags by that value's policy; the machine's `exec` is the core's Execute and always answers a next state.
-/

namespace Sys2Proof.Machine

/-- Every Execute ends in `finish`, with the destination and the policy of R101's table. -/
theorem execute_eq_finish (p : Params) (i : Instr) (R : Registers) (it : Bool) :
    ∃ result c vOpt, execute p i R it = finish p i.members.setflags it R i.members.rd result c vOpt := by
  cases i <;> exact ⟨_, _, _, rfl⟩

/-- The flag-setting variants, and no other, have a low register as destination. -/
theorem instr_rd_of_notIt {i : Instr} (h : i.members.setflags = .notIt) : ∃ r : LowReg, i.members.rd = lowReg r := by
  cases i <;> first | exact ⟨_, rfl⟩ | simp [Instr.members, Instr.tag, Variant.setflags] at h

/-- The policy of every variant is NEVER or NOT_IT; none has ALWAYS. -/
theorem instr_setflags_cases (i : Instr) : i.members.setflags = .never ∨ i.members.setflags = .notIt := by
  cases i <;> simp [Instr.members, Instr.tag, Variant.setflags]

/-- `finish` as the write and the commit, side by side. -/
theorem finish_eq (p : Params) (policy : SetFlags) (it : Bool) (R : Registers) (rd : Reg) (result : Word) (c : Bool)
    (vOpt : Option Bool) :
    finish p policy it R rd result c vOpt =
      ⟨(R.write p rd result).regs.setFlags (commitFlags policy it result c vOpt R.flags), decide (rd = .pc)⟩ := by
  simp [finish]

/-- The machine's `exec` is the core's Execute on the registers. -/
theorem exec_eq_complete (i : Instr) (s : State) : exec i s = s.complete (execute Config.params i s.regs s.inItBlock) := by
  cases i <;> rfl

/-- What a completed Execute leaves: the registers and the signal of Execute, and the rest of the state. -/
theorem complete_eq_next {s t : State} {e : Executed} (h : s.complete e = .next t) :
    t.regs = e.regs ∧ t.cfChanged = e.cfChanged ∧ t.inItBlock = s.inItBlock ∧ t.prog = s.prog := by
  simp only [State.complete, Host.Outcome.next.injEq] at h
  subst h
  exact ⟨rfl, rfl, rfl, rfl⟩

/-- The inversion lemma of `exec`: one result, one write, one commit. -/
theorem exec_cases {i : Instr} {s t : State} (h : exec i s = .next t) :
    ∃ result c vOpt,
      t.regs = (s.regs.write Config.params i.members.rd result).regs.setFlags
        (commitFlags i.members.setflags s.inItBlock result c vOpt s.regs.flags) ∧
      t.cfChanged = decide (i.members.rd = .pc) ∧ t.inItBlock = s.inItBlock ∧ t.prog = s.prog := by
  rw [exec_eq_complete] at h
  obtain ⟨result, c, vOpt, he⟩ := execute_eq_finish Config.params i s.regs s.inItBlock
  rw [he, finish_eq] at h
  obtain ⟨h1, h2, h3, h4⟩ := complete_eq_next h
  exact ⟨result, c, vOpt, h1, h2, h3, h4⟩

end Sys2Proof.Machine
end

