-- ==== Sys2Proof/Laws/PerInstr.lean ====
section
/-!
SUPPORT. Statements about every instruction as syntax, one lemma for each constructor.

`FixedBits`: the word of a variant value carries the fixed bits of its format (30_encoding.md R54 to R64), so it
raw-matches its own catalog entry.
-/

namespace Sys2Proof.Laws.FixedBits

/-- The discriminator bits of the encoded word are the pattern of the value's own entry. -/
def Statement (i : Instr) : Prop := rawMatch i.tag (encode i) = true

theorem addSpSp (rm : Reg) : Statement (.addSpSp rm) := by
  have h : ∀ b : BitVec 4, (0b010001001#9 ++ b ++ 0b101#3 : BitVec 16) &&& 0xFF87#16 = 0x4485#16 := by decide
  simpa [Statement, rawMatch, encode, Instr.tag, Variant.mask, Variant.pattern] using h (bitsOfReg rm)

theorem addRdSp (rdm : Reg) : Statement (.addRdSp rdm) := by
  have h : ∀ b : BitVec 4, (0b01000100#8 ++ b.extractLsb' 3 1 ++ 0b1101#4 ++ b.extractLsb' 0 3 : BitVec 16) &&& 0xFF78#16
      = 0x4468#16 := by decide
  simpa [Statement, rawMatch, encode, Instr.tag, Variant.mask, Variant.pattern] using h (bitsOfReg rdm)

theorem addHi (rdn rm : Reg) : Statement (.addHi rdn rm) := by
  have h : ∀ b c : BitVec 4, (0b01000100#8 ++ b.extractLsb' 3 1 ++ c ++ b.extractLsb' 0 3 : BitVec 16) &&& 0xFF00#16
      = 0x4400#16 := by decide
  simpa [Statement, rawMatch, encode, Instr.tag, Variant.mask, Variant.pattern] using h (bitsOfReg rdn) (bitsOfReg rm)

theorem addLo (rd rn rm : LowReg) : Statement (.addLo rd rn rm) := by
  revert rd rn rm; unfold Statement; decide

theorem subLo (rd rn rm : LowReg) : Statement (.subLo rd rn rm) := by
  revert rd rn rm; unfold Statement; decide

theorem addI3 (rd rn : LowReg) (imm : BitVec 3) : Statement (.addI3 rd rn imm) := by
  revert rd rn imm; unfold Statement; decide

theorem addI8 (rdn : LowReg) (imm : BitVec 8) : Statement (.addI8 rdn imm) := by
  revert rdn imm; unfold Statement; decide

theorem lslI (rd rm : LowReg) (imm : BitVec 5) : Statement (.lslI rd rm imm) := by
  revert rd rm imm; unfold Statement; decide

theorem lsrI (rd rm : LowReg) (imm : BitVec 5) : Statement (.lsrI rd rm imm) := by
  revert rd rm imm; unfold Statement; decide

theorem lslR (rdn rm : LowReg) : Statement (.lslR rdn rm) := by
  revert rdn rm; unfold Statement; decide

theorem lsrR (rdn rm : LowReg) : Statement (.lsrR rdn rm) := by
  revert rdn rm; unfold Statement; decide

end Sys2Proof.Laws.FixedBits
end

