-- ==== Sys2Proof/Laws/Program.lean ====
section
/-!
SUPPORT. The program map: a read after a write, and that every operation keeps the canonical form.
-/

namespace Sys2Proof.Machine

theorem Program.lookup_set_same (g : Program) (a : Nat) (w : HWord) : (g.set a w).lookup a = some w := by
  induction g with
  | nil => simp [Program.set, Program.lookup]
  | cons e rest ih =>
    obtain ⟨b, v⟩ := e
    simp only [Program.set]
    split
    · simp [Program.lookup]
    · split
      · simp [Program.lookup]
      · rename_i h; simp [Program.lookup, h, ih]

theorem Program.lookup_set_other (g : Program) {a b : Nat} (h : b ≠ a) (w : HWord) : (g.set a w).lookup b = g.lookup b := by
  induction g with
  | nil => simp [Program.set, Program.lookup, h]
  | cons e rest ih =>
    obtain ⟨c, v⟩ := e
    simp only [Program.set]
    split
    · simp [Program.lookup, h]
    · split
      · rename_i hac; subst hac; simp [Program.lookup, h]
      · simp [Program.lookup, ih]

/-- A canonical program begins with an address of the map and goes on with a canonical rest, all above it. -/
theorem Program.wf_cons {a : Nat} {w : HWord} {rest : Program} :
    Program.wf ((a, w) :: rest) = true ↔
      Program.addressOk a = true ∧ (∀ b v, rest.head? = some (b, v) → a < b) ∧ Program.wf rest = true := by
  cases rest with
  | nil => simp [Program.wf]
  | cons e rest => obtain ⟨b, v⟩ := e; simp [Program.wf, and_assoc]

/-- The first address after a write: the one written or the one that was first. -/
theorem Program.head_set (g : Program) (a : Nat) (w : HWord) (b : Nat) (v : HWord) (h : (g.set a w).head? = some (b, v)) :
    b = a ∨ ∃ u, g.head? = some (b, u) := by
  cases g with
  | nil => simp [Program.set] at h; exact .inl h.1.symm
  | cons e rest =>
    obtain ⟨c, u⟩ := e
    simp only [Program.set] at h
    split at h
    · simp at h; exact .inl h.1.symm
    · split at h
      · simp at h; exact .inl h.1.symm
      · simp at h; exact .inr ⟨u, by simp [h.1]⟩

/-- Writing a word at an address of the map keeps the canonical form. -/
theorem Program.wf_set {g : Program} {a : Nat} (w : HWord) (ha : Program.addressOk a = true) (hg : g.wf = true) :
    (g.set a w).wf = true := by
  induction g with
  | nil => simpa [Program.set, Program.wf] using ha
  | cons e rest ih =>
    obtain ⟨b, v⟩ := e
    have hb := Program.wf_cons.1 hg
    simp only [Program.set]
    split
    · rename_i hab
      exact Program.wf_cons.2 ⟨ha, by simpa using hab, hg⟩
    · split
      · rename_i hab; subst hab
        exact Program.wf_cons.2 ⟨ha, hb.2.1, hb.2.2⟩
      · rename_i hab hne
        refine Program.wf_cons.2 ⟨hb.1, ?_, ih hb.2.2⟩
        intro c u hc
        obtain rfl | ⟨u', hu⟩ := Program.head_set rest a w c u hc
        · omega
        · exact hb.2.1 c u' hu

/-- Writing the word two bytes make keeps the canonical form. -/
theorem Program.wf_setBytes {g : Program} {a : Nat} (lower next : Byte) (ha : Program.addressOk a = true)
    (hg : g.wf = true) : (g.setBytes a lower next).wf = true := Program.wf_set _ ha hg

/-- The reset program is canonical. -/
theorem Program.wf_reset : State.reset.prog.wf = true := rfl

/-- A lookup of a canonical program finds a word at an address of the map only. -/
theorem Program.addressOk_of_lookup {g : Program} {a : Nat} {w : HWord} (hg : g.wf = true) (h : g.lookup a = some w) :
    Program.addressOk a = true := by
  induction g with
  | nil => simp [Program.lookup] at h
  | cons e rest ih =>
    obtain ⟨b, v⟩ := e
    have hb := Program.wf_cons.1 hg
    simp only [Program.lookup] at h
    split at h
    · rename_i hab; rw [hab]; exact hb.1
    · exact ih hb.2.2 h

end Sys2Proof.Machine
end

