-- ==== Sys2Proof/Laws/Step.lean ====
section
/-!
SUPPORT. Said once: what a step of the machine can do, and what the advance of `pc` leaves.
-/

namespace Sys2Proof.Machine

@[simp] theorem advance_of_changed {s : State} (h : s.cfChanged = true) : advance s = s := by simp [advance, h]

@[simp] theorem advance_of_unchanged {s : State} (h : s.cfChanged = false) :
    advance s = s.setRegs (s.regs.setPc (s.regs.pc + Config.instrBytes)) := by simp [advance, h]

@[simp] theorem advance_inItBlock (s : State) : (advance s).inItBlock = s.inItBlock := by unfold advance; split <;> rfl
@[simp] theorem advance_cfChanged (s : State) : (advance s).cfChanged = s.cfChanged := by unfold advance; split <;> rfl
@[simp] theorem advance_prog (s : State) : (advance s).prog = s.prog := by unfold advance; split <;> rfl

/-- The inversion lemma of `step`: a next state is the advanced state after the decoded instruction at `pc`. -/
theorem step_cases {s t : State} (h : step s = .next t) :
    ∃ w i u, fetch s = some w ∧ decode w = .variant i ∧ exec i s = .next u ∧ t = advance u := by
  simp only [step, refStep] at h
  split at h
  · cases h
  · rename_i w hw
    split at h
    · rename_i u hu
      simp only [coreCall] at hu
      split at hu
      · rename_i i hi
        simp only [Host.Outcome.next.injEq] at h
        exact ⟨w, i, u, hw, hi, hu, h.symm⟩
      · simp [raiseUnrecognized] at hu
    · cases h
    · cases h

end Sys2Proof.Machine
end

