-- ==== Sys2Proof/Tests/Slice0.lean ====
section
/-!
SUPPORT. The model's own tests. Expected values are the spec's: the vectors of 95_test_vectors.md (named in each test's
comment) and the corner cases of the rules. Then a witness for the hypotheses of each statement that has any.
-/

namespace Sys2Proof.Tests

open Sys2Proof Sys2Proof.Machine Sys2Proof.Safety

/-! ### Builders -/

/-- Registers at reset values but for the general registers listed. -/
def regs (l : List (Fin 13 × Word)) : Registers := l.foldl (fun R e => R.setGeneral e.1 e.2) Registers.reset

/-- Flags from four Booleans in the order N Z C V. -/
def nzcv (n z c v : Bool) : Flags := ⟨n, z, c, v⟩

/-- One call of the core on a word: the registers after it and `cf_changed`. -/
def after (w : HWord) (it : Bool) (R : Registers) : Option (Registers × Bool) :=
  (nextOf (coreCall w ((State.init R).setInItBlock it))).map fun t => (t.regs, t.cfChanged)

/-- One general register, the flags and `cf_changed` after a call. -/
def seen (k : Fin 13) (e : Option (Registers × Bool)) : Option (Word × Flags × Bool) :=
  e.map fun x => (x.1.general[k], x.1.flags, x.2)

/-- The machine about to run one word, from the given registers. -/
def ready (w : HWord) (R : Registers) : State := (State.init R).withFetchWord 16 w.toNat

/-! ### Well-formedness: an ill-formed term for each check -/

theorem test_wf_addRdSp_refuses_sp : (Instr.addRdSp .sp).wf = false := by decide
theorem test_wf_addHi_refuses_sp_destination : (Instr.addHi .sp .lr).wf = false := by decide
theorem test_wf_addHi_refuses_sp_operand : (Instr.addHi .pc .sp).wf = false := by decide
theorem test_wf_accepts_reachable :
    (Instr.addHi .pc .pc).wf && (Instr.addRdSp .pc).wf && (Instr.addSpSp .sp).wf && (Instr.addLo 7 7 7).wf = true := by decide
theorem test_program_wf_refuses_odd_address : Program.wf [(3, 0#16)] = false := by decide
theorem test_program_wf_refuses_high_address : Program.wf [(2 ^ 32, 0#16)] = false := by decide
theorem test_program_wf_refuses_falling_addresses : Program.wf [(4, 0#16), (2, 0#16)] = false := by decide
theorem test_program_wf_refuses_repeated_address : Program.wf [(2, 0#16), (2, 1#16)] = false := by decide

/-! ### Decode: every constructor, from words of section 4 -/

-- K53, K59
theorem test_decode_addSpSp : decode 0x44ED#16 = .variant (.addSpSp .sp) ∧ decode 0x44FD#16 = .variant (.addSpSp .pc) := by decide
-- K50, K54
theorem test_decode_addRdSp :
    decode 0x446D#16 = .variant (.addRdSp (.gen 5)) ∧ decode 0x44EF#16 = .variant (.addRdSp .pc) := by decide
-- K66, K68
theorem test_decode_addHi :
    decode 0x44F7#16 = .variant (.addHi .pc .lr) ∧ decode 0x44F0#16 = .variant (.addHi (.gen 8) .lr) := by decide
-- K12, and 0x1A40's order of fields on F14
theorem test_decode_addLo : decode 0x1888#16 = .variant (.addLo 0 1 2) := by decide
theorem test_decode_subLo : decode 0x1A88#16 = .variant (.subLo 0 1 2) ∧ decode 0x1A40#16 = .variant (.subLo 0 0 1) := by decide
-- K18, K19
theorem test_decode_addI3 : decode 0x1C48#16 = .variant (.addI3 0 1 1#3) ∧ decode 0x1DFF#16 = .variant (.addI3 7 7 7#3) := by decide
-- K26
theorem test_decode_addI8 : decode 0x32AB#16 = .variant (.addI8 2 171#8) := by decide
-- K1, K2
theorem test_decode_lslI : decode 0x0000#16 = .variant (.lslI 0 0 0#5) ∧ decode 0x0088#16 = .variant (.lslI 0 1 2#5) := by decide
-- K8, K7
theorem test_decode_lsrI : decode 0x0808#16 = .variant (.lsrI 0 1 0#5) ∧ decode 0x0FFF#16 = .variant (.lsrI 7 7 31#5) := by decide
-- K34
theorem test_decode_lslR : decode 0x4088#16 = .variant (.lslR 0 1) := by decide
-- K37
theorem test_decode_lsrR : decode 0x40C8#16 = .variant (.lsrR 0 1) := by decide

-- 30_encoding.md R57: 0001100 mmm nnn ddd, written out bit by bit
theorem test_decode_addLo_bits : decode 0b0001100101011110#16 = .variant (.addLo 6 3 5) := by decide
-- R58, R59, R60
theorem test_decode_subLo_bits : decode 0b0001101101011110#16 = .variant (.subLo 6 3 5) := by decide
theorem test_decode_addI3_bits : decode 0b0001110101011110#16 = .variant (.addI3 6 3 5#3) := by decide
theorem test_decode_addI8_bits : decode 0b0011010111000101#16 = .variant (.addI8 5 0b11000101#8) := by decide
-- R61 to R64
theorem test_decode_lslI_bits : decode 0b0000010110011110#16 = .variant (.lslI 6 3 0b10110#5) := by decide
theorem test_decode_lsrI_bits : decode 0b0000110110011110#16 = .variant (.lsrI 6 3 0b10110#5) := by decide
theorem test_decode_lslR_bits : decode 0b0100000010011110#16 = .variant (.lslR 6 3) := by decide
theorem test_decode_lsrR_bits : decode 0b0100000011011110#16 = .variant (.lsrR 6 3) := by decide
-- R54 to R56
theorem test_decode_addSpSp_bits : decode 0b0100010011011101#16 = .variant (.addSpSp (.gen 11)) := by decide
theorem test_decode_addRdSp_bits : decode 0b0100010011101011#16 = .variant (.addRdSp (.gen 11)) := by decide
theorem test_decode_addHi_bits : decode 0b0100010011010011#16 = .variant (.addHi (.gen 11) (.gen 10)) := by decide

-- the refusals beside their nearest accepted input: K9, K10, K20, K23, K28, K32, K39, K72, K88
theorem test_decode_refuses :
    [0x1000#16, 0x17FF#16, 0x1E00#16, 0x2FFF#16, 0x3800#16, 0x407F#16, 0x4100#16, 0x43FF#16, 0x4500#16, 0xBF00#16].all
      (fun w => decide (decode w = .unrecognized w)) = true := by decide
theorem test_decode_table_word : decodeTableWord 16 0x4088 = some (.lslR 0 1) ∧ decodeTableWord 16 0x4770 = none := by decide
theorem test_decode_one_byte_is_incomplete : decodeBytes [0x88#8] = .incomplete [0x88#8] := by decide
theorem test_encode_source_example : encode (.addHi .pc .lr) = 0x44F7#16 := by decide

/-! ### The primitives -/

-- A8, A9, A12, A19
theorem test_addWithCarry :
    addWithCarry 0x80000000#32 0x80000000#32 false = ⟨0#32, true, true⟩ ∧
    addWithCarry 0x80000000#32 0x7FFFFFFF#32 true = ⟨0#32, true, false⟩ ∧
    addWithCarry 0x7FFFFFFF#32 0#32 true = ⟨0x80000000#32, false, true⟩ ∧
    addWithCarry 0x80000000#32 0xFFFFFFFE#32 true = ⟨0x7FFFFFFF#32, true, true⟩ := by decide
-- H2, H10, H11, H17, H21
theorem test_shiftWithCarryOut :
    shiftWithCarryOut 0x80000001#32 .lsl 0 true = ⟨0x80000001#32, true⟩ ∧
    shiftWithCarryOut 0x80000002#32 .lsl 32 true = ⟨0#32, false⟩ ∧
    shiftWithCarryOut 0xFFFFFFFF#32 .lsl 33 true = ⟨0#32, false⟩ ∧
    shiftWithCarryOut 0x80000000#32 .lsr 32 false = ⟨0#32, true⟩ ∧
    shiftWithCarryOut 0x12345678#32 .lsl 4 false = ⟨0x23456780#32, true⟩ := by decide

/-! ### Execute -/

-- E2, E6
theorem test_addLo_signed_overflow :
    seen 0 (after 0x1888#16 false (regs [(1, 0x7FFFFFFF#32), (2, 1#32)])) =
      some (0x80000000#32, nzcv true false false true, false) := by decide
theorem test_addLo_in_it_block_keeps_flags :
    seen 0 (after 0x1888#16 true ((regs [(1, 0xFFFFFFFF#32), (2, 1#32)]).setFlags (nzcv true false false false))) =
      some (0#32, nzcv true false false false, false) := by decide
-- F5, F14
theorem test_subLo_signed_overflow :
    seen 0 (after 0x1A88#16 false (regs [(1, 0x80000000#32), (2, 1#32)])) =
      some (0x7FFFFFFF#32, nzcv false false true true, false) := by decide
theorem test_subLo_operand_order :
    seen 0 (after 0x1A40#16 false (regs [(0, 9#32), (1, 4#32)])) = some (5#32, nzcv false false true false, false) := by decide
-- E9, E11
theorem test_addI3_wraps :
    seen 0 (after 0x1C48#16 false (regs [(1, 0xFFFFFFFF#32)])) = some (0#32, nzcv false true true false, false) := by decide
theorem test_addI3_destination_is_source :
    seen 7 (after 0x1DFF#16 false (regs [(7, 0x7FFFFFF9#32)])) =
      some (0x80000000#32, nzcv true false false true, false) := by decide
-- E15, E17
theorem test_addI8_is_unsigned :
    seen 7 (after 0x37FF#16 false (regs [(7, 1#32)])) = some (0x100#32, nzcv false false false false, false) := by decide
theorem test_addI8_in_it_block :
    seen 2 (after 0x3280#16 true ((regs [(2, 0x7FFFFF80#32)]).setFlags (nzcv false true false false))) =
      some (0x80000000#32, nzcv false true false false, false) := by decide
-- E18, E20
theorem test_addHi_source_example :
    (after 0x44F7#16 false (((regs []).setPc 1000#32).setLr 2000#32)).map (fun e => (e.1.pc, e.1.lr, e.2)) =
      some (3004#32, 2000#32, true) := by decide
theorem test_addHi_zero_result_keeps_flags :
    seen 0 (after 0x4440#16 false ((regs [(0, 1#32), (8, 0xFFFFFFFF#32)]).setFlags (nzcv true false false true))) =
      some (0#32, nzcv true false false true, false) := by decide
-- E31, E33
theorem test_addRdSp_reads_the_process_bank :
    seen 0 (after 0x4468#16 false
      ((((regs [(0, 0x10#32)]).setSpMain 0x20001000#32).setSpProcess 0x20002000#32).setSpSelect .psp)) =
      some (0x20002010#32, nzcv false false false false, false) := by decide
theorem test_addRdSp_to_pc :
    (after 0x44EF#16 false (((regs []).setPc 0x100#32).setSpMain 0x20000001#32)).map (fun e => (e.1.pc, e.2)) =
      some (0x20000104#32, true) := by decide
-- E35, E39
theorem test_addSpSp_process_bank_only :
    (after 0x4485#16 false
      ((((regs [(0, 0xFFFFFFF8#32)]).setSpMain 0x20001000#32).setSpProcess 0x20002000#32).setSpSelect .psp)).map
        (fun e => (e.1.spMain, e.1.spProcess, e.2)) = some (0x20001000#32, 0x20001FF8#32, false) := by decide
theorem test_addSpSp_reads_pc_plus_4 :
    (after 0x44FD#16 false (((regs []).setPc 0x100#32).setSpMain 0x20001000#32)).map (fun e => (e.1.spMain, e.1.pc, e.2)) =
      some (0x20001104#32, 0x100#32, false) := by decide
-- G2, G7
theorem test_lslI_by_0_keeps_carry :
    seen 0 (after 0x0008#16 false ((regs [(1, 0x80000000#32)]).setFlags (nzcv false false true true))) =
      some (0x80000000#32, nzcv true false true true, false) := by decide
theorem test_lslI_by_31 :
    seen 0 (after 0x07C8#16 false (regs [(1, 2#32)])) = some (0#32, nzcv false true true false, false) := by decide
-- G11, G15
theorem test_lsrI_field_0_is_32 :
    seen 0 (after 0x0808#16 false (regs [(1, 0x80000000#32)])) = some (0#32, nzcv false true true false, false) := by decide
theorem test_lsrI_keeps_v :
    seen 0 (after 0x0FC8#16 false ((regs [(1, 0x80000000#32)]).setFlags (nzcv false false true true))) =
      some (1#32, nzcv false false false true, false) := by decide
-- G22, G27
theorem test_lslR_by_32_carries_bit_0 :
    seen 0 (after 0x4088#16 false ((regs [(0, 2#32), (1, 32#32)]).setFlags (nzcv false false true false))) =
      some (0#32, nzcv false true false false, false) := by decide
theorem test_lslR_amount_is_destination :
    seen 0 (after 0x4080#16 false (regs [(0, 0x21#32)])) = some (0#32, nzcv false true false false, false) := by decide
-- G35, G38
theorem test_lsrR_low_byte_only :
    seen 0 (after 0x40C8#16 false ((regs [(0, 0xFFFFFFFF#32), (1, 0x1FF#32)]).setFlags (nzcv false false true false))) =
      some (0#32, nzcv false true false false, false) := by decide
theorem test_lsrR_amount_is_destination :
    seen 7 (after 0x40FF#16 false ((regs [(7, 0x80000007#32)]).setFlags (nzcv false false false true))) =
      some (0x01000000#32, nzcv false false false true, false) := by decide

/-! ### The reference caller, one step each -/

-- P1 at 0x100: r0 wraps to 3, pc advances by 2
theorem test_step_advances_pc :
    (nextOf (step (ready 0x3005#16 ((regs [(0, 0xFFFFFFFE#32)]).setPc 0x100#32)))).map
      (fun t => (t.regs.general[0], t.regs.pc)) = some (3#32, 0x102#32) := by decide
-- P5: a jump to itself, the signal and not the value decides
theorem test_step_jump_to_itself :
    (nextOf (step (ready 0x4487#16 ((regs [(0, 0xFFFFFFFC#32)]).setPc 0x500#32)))).map (fun t => (t.regs.pc, t.cfChanged)) =
      some (0x500#32, true) := by decide
-- P4: the run is faulted, not halted, in the state after the first step
theorem test_run_faults :
    (match refRun 5 (((ready 0x3001#16 ((regs [(0, 0x7FFFFFFF#32)]).setPc 0x400#32)).setProg
        [(0x400, 0x3001#16), (0x402, 0x4770#16)])) with
      | .faulted w t => some (w, t.regs.general[0], t.regs.pc)
      | _ => none) = some (0x4770#16, 0x80000000#32, 0x402#32) := by decide
-- the top of the address space: the advance wraps
theorem test_step_wraps_pc :
    (nextOf (step (ready 0x3001#16 ((regs []).setPc 0xFFFFFFFE#32)))).map (fun t => t.regs.pc) = some 0#32 := by decide
theorem test_odd_pc_halts :
    refRun 1 ((ready 0x3001#16 ((regs []).setPc 0x100#32)).setRegs ((regs []).setPc 0x101#32)) =
      .halted ((ready 0x3001#16 ((regs []).setPc 0x100#32)).setRegs ((regs []).setPc 0x101#32)) := by decide
theorem test_fetch_word_clears_pc_bit_0 : fetch (ready 0x1888#16 ((regs []).setPc 0x101#32)) = some 0x1888#16 := by decide
theorem test_sp_select_bits : spSelectBit .msp = 0#1 ∧ spSelectBit .psp = 1#1 := by decide

/-! ### A witness for the hypotheses of each statement that has any -/

/-- The machine at 0x100 with both banks set, about to run `w`. -/
def at0 (w : HWord) : State :=
  ready w ((((regs [(0, 3#32), (1, 33#32), (8, 7#32)]).setPc 0x100#32).setSpMain 0x1000#32).setSpProcess 0x2000#32)

/-- The same with the process bank selected. -/
def at1 (w : HWord) : State := (at0 w).setRegs ((at0 w).regs.setSpSelect .psp)

theorem test_witness_StepKeepsInvariant : Inv (at0 0x44F7#16) ∧ ∃ t, step (at0 0x44F7#16) = .next t := ⟨by decide, _, rfl⟩

-- ExecFrame: every exec answers; a destination of each kind, both selections, both grounds for keeping the flags
theorem test_witness_ExecFrame_general_kept :
    (∃ t, exec (.addLo 0 1 2) (at0 0#16) = .next t) ∧ (Instr.addLo 0 1 2).members.rd ≠ .gen 12 ∧
      (Instr.addLo 0 1 2).members.rd ≠ .lr ∧ (Instr.addLo 0 1 2).members.rd ≠ .pc := ⟨⟨_, rfl⟩, by decide⟩
theorem test_witness_ExecFrame_banks :
    (∃ t, exec (.addSpSp .lr) (at0 0#16) = .next t) ∧
      ¬((Instr.addSpSp .lr).members.rd = .sp ∧ (at0 0#16).regs.spSelect = .psp) ∧
      ¬((Instr.addSpSp .lr).members.rd = .sp ∧ (at1 0#16).regs.spSelect = .msp) := ⟨⟨_, rfl⟩, by decide⟩
theorem test_witness_ExecFrame_flags :
    (Instr.addHi .lr .pc).members.setflags = .never ∧ ((at0 0#16).setInItBlock true).inItBlock = true ∧
      (Instr.lsrR 0 1).tag ∈ [Variant.lslI, .lsrI, .lslR, .lsrR] := by decide

theorem test_witness_OperandRead : (at0 0#16).regs.spSelect = .msp ∧ (at1 0#16).regs.spSelect = .psp := by decide
theorem test_witness_ReadAfterWrite : Reg.pc = Reg.pc ∧ Reg.gen 0 ≠ Reg.gen 12 := by decide
theorem test_witness_CallerPort :
    WordPort.general 0 ≠ WordPort.general 12 ∧ WordPort.pc ≠ .sp ∧ WordPort.spMain ≠ .sp := by decide

-- SubtractionOutcomesByCase, one witness a clause at its boundary
theorem test_witness_Subtraction_equal : (0x80000000#32 : Word) = 0x80000000#32 := by decide
theorem test_witness_Subtraction_above : (0x7FFFFFFF#32).toNat < (0x80000000#32).toNat := by decide
theorem test_witness_Subtraction_below : (0#32).toNat < (1#32).toNat := by decide
theorem test_witness_Subtraction_from_zero : (0x80000000#32 : Word) ≠ 0#32 := by decide

-- ShiftWithCarryOutcome and ShiftCarryUniform, the amounts where clauses meet
theorem test_witness_Shift_amounts : 1 ≤ 1 ∧ 1 ≤ 32 ∧ 32 ≤ 32 ∧ 33 ≤ 33 ∧ ¬33 ≤ 32 ∧ ¬1 ≤ 0 := by decide

theorem test_witness_FlagCommit :
    (SetFlags.always = .always ∨ (SetFlags.always = .notIt ∧ true = false)) ∧
    (SetFlags.notIt = .always ∨ (SetFlags.notIt = .notIt ∧ false = false)) ∧
    (SetFlags.never = .never ∨ (SetFlags.never = .notIt ∧ false = true)) ∧
    (SetFlags.notIt = .never ∨ (SetFlags.notIt = .notIt ∧ true = true)) := by decide
theorem test_witness_FlagsDescribe :
    (Instr.subLo 0 1 0).members.setflags = .notIt ∧ (at0 0#16).inItBlock = false ∧
      ∃ t, exec (.subLo 0 1 0) (at0 0#16) = .next t := ⟨by decide, by decide, _, rfl⟩
theorem test_witness_FlagsAreReadOnly :
    (Instr.lslR 0 1).members.setflags = .notIt ∧ (nzcv true true false true).c = (at0 0#16).regs.flags.c ∧
      (Instr.addI8 0 0#8).tag ∉ [Variant.lslI, .lsrI, .lslR, .lsrR] ∧
      (Instr.addI8 0 0#8).members.setflags = .notIt ∧ (at0 0#16).inItBlock = false ∧
      (Instr.lslR 0 1).tag ∈ [Variant.lslI, .lsrI, .lslR, .lsrR] := by decide

theorem test_witness_AddStackPointer :
    (0x1000#32 : Word) = (if (at0 0#16).regs.spSelect = .msp then (at0 0#16).regs.spMain else (at0 0#16).regs.spProcess) ∧
    (0x2000#32 : Word) = (if (at1 0#16).regs.spSelect = .msp then (at1 0#16).regs.spMain else (at1 0#16).regs.spProcess) := by
  decide
theorem test_witness_AlignedStackMask :
    (⟨4#32, 0xFFFFFFFC#32⟩ : Params).spWriteMask = 0xFFFFFFFC#32 ∧
      (execute ⟨4#32, 0xFFFFFFFC#32⟩ (.addSpSp (.gen 0)) (at0 0#16).regs false).regs.spMain = 0x1000#32 := by decide
theorem test_witness_ControlTransfer_addHi :
    ∃ t, exec (.addHi .pc .lr) (at0 0#16) = .next t ∧ t.cfChanged = true := ⟨_, rfl, rfl⟩
theorem test_witness_ControlTransfer_addRdSp :
    ∃ t, exec (.addRdSp .pc) (at0 0#16) = .next t ∧ t.cfChanged = true := ⟨_, rfl, rfl⟩
theorem test_witness_ControlTransfer_none :
    ∃ t, exec (.addLo 0 1 2) (at0 0#16) = .next t ∧ t.cfChanged = false ∧ (Instr.addLo 0 1 2).members.rd ≠ .lr :=
  ⟨_, rfl, rfl, by decide⟩

theorem test_witness_Reach_bank :
    ∃ t, decode 0x4485#16 = .variant (.addSpSp (.gen 0)) ∧ exec (.addSpSp (.gen 0)) (at0 0#16) = .next t ∧
      t.regs.spMain ≠ (at0 0#16).regs.spMain := ⟨_, by decide, rfl, by decide⟩
theorem test_witness_Reach_pc :
    ∃ t, decode 0x4487#16 = .variant (.addHi .pc (.gen 0)) ∧ exec (.addHi .pc (.gen 0)) (at0 0#16) = .next t ∧
      t.regs.pc ≠ (at0 0#16).regs.pc := ⟨_, by decide, rfl, by decide⟩
theorem test_witness_Reach_high :
    ∃ t, decode 0x44E8#16 = .variant (.addRdSp (.gen 8)) ∧ exec (.addRdSp (.gen 8)) (at0 0#16) = .next t ∧
      t.regs.general[8] ≠ (at0 0#16).regs.general[8] := ⟨_, by decide, rfl, by decide⟩
theorem test_witness_Reach_flags :
    ∃ t, decode 0x1A00#16 = .variant (.subLo 0 0 0) ∧ exec (.subLo 0 0 0) (at0 0#16) = .next t ∧
      t.regs.flags ≠ (at0 0#16).regs.flags := ⟨_, by decide, rfl, by decide⟩

theorem test_witness_ShiftRightImmediate : (0#5).toNat = 0 ∧ (1#5).toNat ≠ 0 ∧ (31#5).toNat ≠ 0 := by decide
-- the amounts 33, 32, 0 and 255 as low bytes of a register
theorem test_witness_ShiftRegister :
    33 = (lowValue (at0 0#16).regs 1).toNat % 256 ∧ 32 = (0x120#32).toNat % 256 ∧ 0 = (0x100#32).toNat % 256 ∧
      255 = (0x1FF#32).toNat % 256 := by decide

theorem test_witness_DecodeEncode : (Instr.addHi (.gen 12) .pc).wf = true := by decide
theorem test_witness_EncodeDecode : decode 0x44FF#16 = .variant (.addHi .pc .pc) := by decide
theorem test_witness_IdentifyIsExclusive : identify .addSpSp 0x44ED#16 = true ∧ identify .addRdSp 0x44ED#16 = false := by decide

theorem test_witness_DecodeTakes_leastPriority :
    rawMatch .addHi 0x44F7#16 = true ∧ ∀ u : Variant, u.priority < Variant.addHi.priority → rawMatch u 0x44F7#16 = false :=
  ⟨by decide, fun u => by cases u <;> decide⟩

-- ExtractedFields and DecodeTakesTheIdentifiedEntry: for each entry its first and its last word
theorem test_witness_Identify_sp_forms :
    identify .addSpSp 0x4485#16 && identify .addSpSp 0x44FD#16 && identify .addRdSp 0x4468#16 &&
      identify .addRdSp 0x44EF#16 && identify .addHi 0x4400#16 && identify .addHi 0x44FF#16 = true := by decide
theorem test_witness_Identify_arithmetic :
    identify .addLo 0x1800#16 && identify .addLo 0x19FF#16 && identify .subLo 0x1A00#16 && identify .subLo 0x1BFF#16 &&
      identify .addI3 0x1C00#16 && identify .addI3 0x1DFF#16 && identify .addI8 0x3000#16 && identify .addI8 0x37FF#16 =
        true := by decide
theorem test_witness_Identify_shifts :
    identify .lslI 0x0000#16 && identify .lslI 0x07FF#16 && identify .lsrI 0x0800#16 && identify .lsrI 0x0FFF#16 &&
      identify .lslR 0x4080#16 && identify .lslR 0x40BF#16 && identify .lsrR 0x40C0#16 && identify .lsrR 0x40FF#16 =
        true := by decide

theorem test_witness_RawMatchOverlaps :
    Variant.addRdSp ≠ .addHi ∧ rawMatch .addRdSp 0x4468#16 = true ∧ rawMatch .addHi 0x4468#16 = true ∧
      rawMatch .addSpSp 0x44ED#16 = true ∧ rawMatch .addRdSp 0x44ED#16 = true := by decide
theorem test_witness_BytesDecode :
    decode 0x1888#16 = .variant (.addLo 0 1 2) ∧ bytesOfWord 0x1888#16 = [0x88#8, 0x18#8] ∧
      decode 0x4770#16 = .unrecognized 0x4770#16 := by decide

theorem test_witness_OnlyFault :
    ¬RecognizedRange 0x4770#16 ∧ (at0 0x4770#16).prog.lookup (at0 0x4770#16).regs.pc.toNat = some 0x4770#16 := by decide
theorem test_witness_StepRuns_halted : State.reset.prog.lookup State.reset.regs.pc.toNat = none := by decide
theorem test_witness_StepRuns_decoded :
    (at0 0x4088#16).prog.lookup (at0 0x4088#16).regs.pc.toNat = some 0x4088#16 ∧
      decode 0x4088#16 = .variant (.lslR 0 1) ∧ ∃ t, exec (.lslR 0 1) (at0 0x4088#16) = .next t :=
  ⟨by decide, by decide, _, rfl⟩
theorem test_witness_CoreNeverAdvancesPc_unchanged :
    ∃ t, exec (.addLo 0 1 2) (at0 0#16) = .next t ∧ t.cfChanged = false := ⟨_, rfl, rfl⟩
theorem test_witness_RunEnds_halted : ∃ t, refRun 2 (at0 0x4088#16) = .halted t := ⟨_, rfl⟩
theorem test_witness_RunEnds_faulted : ∃ t, refRun 1 (at0 0x4770#16) = .faulted 0x4770#16 t := ⟨_, rfl⟩
theorem test_witness_RunEnds_running : ∃ t, refRun 1 (at0 0x4088#16) = .running t := ⟨_, rfl⟩
theorem test_witness_FetchWord :
    (at0 0x44FF#16).prog.wf = true ∧ PcEven (at0 0x44FF#16) ∧ 0x102 ≠ (at0 0x44FF#16).regs.pc.toNat / 2 * 2 ∧
      decode 0x44FF#16 = .variant (.addHi .pc .pc) := by decide

end Sys2Proof.Tests
end

section
/-!
PROOFS. Register access (10_state.md sections 3, 6 and 9): the operand read by index, the two banks of SP, the caller's
port.
-/

namespace Sys2Proof.Machine

open Sys2Proof.Safety

/-! ### The two banks in terms of the named updates (R23) -/

theorem otherBank_of_msp {R : Registers} (h : R.spSelect = .msp) : otherBank R = R.spProcess := by simp [otherBank, h]

theorem otherBank_of_psp {R : Registers} (h : R.spSelect = .psp) : otherBank R = R.spMain := by simp [otherBank, h]

theorem withOtherBank_of_msp {R : Registers} (h : R.spSelect = .msp) (x : Word) :
    withOtherBank R x = R.setSpProcess x := by
  simp [withOtherBank, h, Registers.setSpProcess]

theorem withOtherBank_of_psp {R : Registers} (h : R.spSelect = .psp) (x : Word) :
    withOtherBank R x = R.setSpMain x := by
  simp [withOtherBank, h, Registers.setSpMain]

/-- The spec's replacement of the selected bank is the machine's store to SP. -/
theorem withSelectedBank_eq_setSp (R : Registers) (x : Word) : withSelectedBank R x = R.setSp x := by
  cases h : R.spSelect <;> simp [withSelectedBank, Registers.setSp, h, Registers.setSpMain, Registers.setSpProcess]

theorem Registers.sp_eq_ite (R : Registers) : R.sp = if R.spSelect = .msp then R.spMain else R.spProcess := by
  cases h : R.spSelect
  case msp => simpa using Registers.sp_of_msp h
  case psp => simpa using Registers.sp_of_psp h

@[simp] theorem otherBank_setSp (R : Registers) (v : Word) : otherBank (R.setSp v) = otherBank R := by
  obtain ⟨hs, h⟩ | ⟨hs, h⟩ := R.setSp_cases v
  · rw [h, otherBank_of_msp hs]; exact otherBank_of_msp hs
  · rw [h, otherBank_of_psp hs]; exact otherBank_of_psp hs

/-- An instruction write of any index leaves the bank the selector does not name. -/
@[simp] theorem otherBank_write (p : Params) (R : Registers) (r : Reg) (v : Word) :
    otherBank (R.write p r v).regs = otherBank R := by
  cases r
  case sp => exact otherBank_setSp R _
  all_goals rfl

@[simp] theorem withOtherBank_sp (R : Registers) (x : Word) : (withOtherBank R x).sp = R.sp := by
  cases h : R.spSelect
  case msp => rw [withOtherBank_of_msp h, Registers.sp_of_msp h]; exact Registers.sp_of_msp h
  case psp => rw [withOtherBank_of_psp h, Registers.sp_of_psp h]; exact Registers.sp_of_psp h

/-! ### The caller's port, by field (R34 to R36) -/

section
variable (R : Registers) (x : Word)

@[simp] theorem portRead_general (i : Fin 13) : portRead R (.general i) = R.general[i] := rfl
@[simp] theorem portRead_lr : portRead R .lr = R.lr := rfl
@[simp] theorem portRead_pc : portRead R .pc = R.pc := rfl
@[simp] theorem portRead_sp : portRead R .sp = R.sp := rfl
@[simp] theorem portRead_spMain : portRead R .spMain = R.spMain := rfl
@[simp] theorem portRead_spProcess : portRead R .spProcess = R.spProcess := rfl

@[simp] theorem portWrite_general (i : Fin 13) : portWrite R (.general i) x = R.setGeneral i x := rfl
@[simp] theorem portWrite_lr : portWrite R .lr x = R.setLr x := rfl
@[simp] theorem portWrite_pc : portWrite R .pc x = R.setPc x := rfl
@[simp] theorem portWrite_sp : portWrite R .sp x = R.setSp x := rfl
@[simp] theorem portWrite_spMain : portWrite R .spMain x = R.setSpMain x := rfl
@[simp] theorem portWrite_spProcess : portWrite R .spProcess x = R.setSpProcess x := rfl

@[simp] theorem portWrite_flags (a : WordPort) : (portWrite R a x).flags = R.flags := by
  cases a <;> simp

@[simp] theorem portWrite_spSelect (a : WordPort) : (portWrite R a x).spSelect = R.spSelect := by
  cases a <;> simp

theorem portRead_portWrite_same (a : WordPort) : portRead (portWrite R a x) a = x := by
  cases a
  case general i => exact general_set_same R.general i x
  all_goals simp

/-- SP is left out on both sides: it is no field of its own but one of the two banks. -/
theorem portRead_portWrite_other {a b : WordPort} (hab : a ≠ b) (ha : a ≠ .sp) (hb : b ≠ .sp) :
    portRead (portWrite R a x) b = portRead R b := by
  cases a
  case general i =>
    cases b
    case general k => exact general_set_other R.general (fun e => hab (congrArg _ e.symm)) x
    case sp => exact absurd rfl hb
    all_goals rfl
  case sp => exact absurd rfl ha
  all_goals cases b <;> simp_all

end

/-! ### The flags and the selector at the port -/

/-- A port read of a flag sees the flags alone. -/
theorem portReadFlag_congr {R S : Registers} (h : R.flags = S.flags) (b : FlagPort) :
    portReadFlag R b = portReadFlag S b := by
  cases b <;> simp [portReadFlag, h]

/-- A port write of a flag is an update of the flags alone. -/
theorem portWriteFlag_eq_setFlags (R : Registers) (a : FlagPort) (f : Bool) :
    ∃ g : Flags, portWriteFlag R a f = R.setFlags g := by
  cases a <;> exact ⟨_, rfl⟩

theorem portReadFlag_portWriteFlag (R : Registers) (a b : FlagPort) (f : Bool) :
    portReadFlag (portWriteFlag R a f) b = if b = a then f else portReadFlag R b := by
  cases a <;> cases b <;> rfl

theorem portRead_setFlags (R : Registers) (g : Flags) (a : WordPort) : portRead (R.setFlags g) a = portRead R a := by
  cases a <;> rfl

theorem portRead_portWriteFlag (R : Registers) (a : WordPort) (b : FlagPort) (f : Bool) :
    portRead (portWriteFlag R b f) a = portRead R a := by
  obtain ⟨g, hg⟩ := portWriteFlag_eq_setFlags R b f
  rw [hg, portRead_setFlags]

theorem portReadSelect_portWriteFlag (R : Registers) (b : FlagPort) (f : Bool) :
    portReadSelect (portWriteFlag R b f) = portReadSelect R := by
  obtain ⟨g, hg⟩ := portWriteFlag_eq_setFlags R b f
  rw [hg]; rfl

/-- A write of the selector moves no stored word; only what SP names can differ. -/
theorem portRead_portWriteSelect {a : WordPort} (ha : a ≠ .sp) (R : Registers) (y : SpSelect) :
    portRead (portWriteSelect R y) a = portRead R a := by
  cases a
  case sp => exact absurd rfl ha
  all_goals rfl

/-! ### The obligations of the family -/

/-- Settles O7: one case of R30 for each kind of index. -/
theorem operandReadByIndex : Obligations.OperandReadByIndex := by
  intro R
  exact ⟨Registers.read_gen _ R, Registers.sp_of_msp, Registers.sp_of_psp, rfl, BitVec.toNat_add R.pc 4#32⟩

/-- Settles O10: a write of SP is a write of the bank the selector names. -/
theorem stackPointerBanks : Obligations.StackPointerBanks := by
  intro p R x
  exact ⟨R.sp_eq_ite, otherBank_write p R .sp x, R.write_spSelect p .sp x, R.setSp_sp _, (withOtherBank_sp R x).symm⟩

/-- Settles O11: field by field, each write is an update of one field. -/
theorem callerPortReadsWhatItWrote : Obligations.CallerPortReadsWhatItWrote := by
  intro R x
  have hselect (y : SpSelect) : portReadSelect (portWriteSelect R y) = y ∧
      (∀ a : WordPort, a ≠ .sp → portRead (portWriteSelect R y) a = portRead R a) ∧
      (∀ b : FlagPort, portReadFlag (portWriteSelect R y) b = portReadFlag R b) :=
    ⟨rfl, fun _ ha => portRead_portWriteSelect ha R y, portReadFlag_congr rfl⟩
  exact
    ⟨portRead_portWrite_same R x,
     fun _ _ => portRead_portWrite_other R x,
     (withSelectedBank_eq_setSp R x).symm,
     R.sp_eq_ite,
     Registers.read_pc Config.params (R.setPc x),
     portReadFlag_portWriteFlag R,
     fun a => portReadFlag_congr (portWrite_flags R x a),
     portRead_portWriteFlag R,
     hselect,
     portWrite_spSelect R x,
     portReadSelect_portWriteFlag R⟩

end Sys2Proof.Machine
end

section
/-!
PROOFS. The encoding (30_encoding.md): Identify says that an entry is the raw match of least priority number (R51), and
no two entries share a priority number (R52).
-/

namespace Sys2Proof

/-! ### The catalog (R52) -/

/-- The priority number is the entry's place in the catalog, counted from 1. -/
theorem catalog_getElem?_priority (v : Variant) : catalog[v.priority - 1]? = some v := by
  cases v <;> rfl

/-- The catalog is closed: it lists every tag. -/
@[simp] theorem mem_catalog (v : Variant) : v ∈ catalog :=
  List.mem_of_getElem? (catalog_getElem?_priority v)

theorem Variant.priority_injective : Function.Injective Variant.priority := by
  intro u v h
  have hplace : catalog[v.priority - 1]? = some u := h ▸ catalog_getElem?_priority u
  exact Option.some.inj (hplace.symm.trans (catalog_getElem?_priority v))

/-! ### Identify (R51) -/

theorem identify_iff {v : Variant} {w : HWord} :
    identify v w = true ↔
      rawMatch v w = true ∧ ∀ u : Variant, u.priority < v.priority → rawMatch u w = false := by
  simp [identify, imp_iff_not_or]

theorem rawMatch_of_identify {v : Variant} {w : HWord} (h : identify v w = true) : rawMatch v w = true :=
  (identify_iff.mp h).1

/-- Priority resolution: no raw match goes before the entry that identifies the word. -/
theorem priority_le_of_identify {u v : Variant} {w : HWord} (hu : identify u w = true) (hv : rawMatch v w = true) :
    u.priority ≤ v.priority := by
  by_contra hlt
  have hno : rawMatch v w = false := (identify_iff.mp hu).2 v (by omega)
  simp [hno] at hv

/-! ### The obligation of the family -/

/-- Settles O40: of two entries that identify a word neither goes before the other, and priority numbers are distinct. -/
theorem identifyIsExclusive : Obligations.IdentifyIsExclusive := by
  intro w u v hu hv
  have huv : u.priority ≤ v.priority := priority_le_of_identify hu (rawMatch_of_identify hv)
  have hvu : v.priority ≤ u.priority := priority_le_of_identify hv (rawMatch_of_identify hu)
  exact Variant.priority_injective (Nat.le_antisymm huv hvu)

end Sys2Proof
end

section
/-!
PROOFS. The primitives (40_primitives.md): the add-with-carry ALU output by output (R80), the shifter by the range of the
amount (R84 to R88).
-/

namespace Sys2Proof.Machine

/-! ### AddWithCarry (R80 to R82) -/

section
variable (x y : Word) (cin : Bool)

theorem addWithCarry_result_toNat :
    (addWithCarry x y cin).result.toNat = (x.toNat + y.toNat + cin.toNat) % 2 ^ 32 := by
  cases cin <;> exact BitVec.toNat_ofNat _ _

theorem addWithCarry_carryOut_iff :
    (addWithCarry x y cin).carryOut = true ↔ 2 ^ 32 ≤ x.toNat + y.toNat + cin.toNat := by
  cases cin <;> exact decide_eq_true_iff

theorem addWithCarry_overflow_iff :
    (addWithCarry x y cin).overflow = true ↔ x.msb = y.msb ∧ (addWithCarry x y cin).result.msb ≠ x.msb := by
  simp [addWithCarry]

end

/-! ### ShiftWithCarryOut (R86 to R88) -/

theorem ShiftResult.eq_mk {r : ShiftResult} {v : Word} {c : Bool} (hv : r.result = v) (hc : r.carryOut = c) :
    r = ⟨v, c⟩ := by
  subst hv hc; rfl

section
variable (x : Word) {n : Nat} (cin : Bool)

theorem shiftWithCarryOut_lsl_carryOut (h1 : 1 ≤ n) (h32 : n ≤ 32) :
    (shiftWithCarryOut x .lsl n cin).carryOut = x.getLsbD (32 - n) := by
  simp [shiftWithCarryOut, h32, Nat.one_le_iff_ne_zero.mp h1]

theorem shiftWithCarryOut_lsr_carryOut (h1 : 1 ≤ n) (h32 : n ≤ 32) :
    (shiftWithCarryOut x .lsr n cin).carryOut = x.getLsbD (n - 1) := by
  simp [shiftWithCarryOut, h32, Nat.one_le_iff_ne_zero.mp h1]

theorem shiftWithCarryOut_lsl (h1 : 1 ≤ n) (h32 : n ≤ 32) :
    shiftWithCarryOut x .lsl n cin = ⟨x <<< n, x.getLsbD (32 - n)⟩ :=
  ShiftResult.eq_mk (shiftWithCarryOut_lsl_result x n cin) (shiftWithCarryOut_lsl_carryOut x cin h1 h32)

theorem shiftWithCarryOut_lsr (h1 : 1 ≤ n) (h32 : n ≤ 32) :
    shiftWithCarryOut x .lsr n cin = ⟨x >>> n, x.getLsbD (n - 1)⟩ :=
  ShiftResult.eq_mk (shiftWithCarryOut_lsr_result x n cin) (shiftWithCarryOut_lsr_carryOut x cin h1 h32)

/-- C1 of 90_conflicts.md: a left shift by 32 shifts out bit 0, not bit 31. -/
theorem shiftWithCarryOut_lsl_32 : shiftWithCarryOut x .lsl 32 cin = ⟨0#32, x.getLsbD 0⟩ := by
  rw [shiftWithCarryOut_lsl x cin (by decide) (by decide), BitVec.shiftLeft_eq_zero (by decide)]

theorem shiftWithCarryOut_lsr_32 : shiftWithCarryOut x .lsr 32 cin = ⟨0#32, x.msb⟩ := by
  rw [shiftWithCarryOut_lsr x cin (by decide) (by decide), BitVec.ushiftRight_eq_zero (by decide),
    BitVec.msb_eq_getLsbD_last]

theorem shiftWithCarryOut_ge_33 (kind : ShiftKind) (h : 33 ≤ n) :
    shiftWithCarryOut x kind n cin = ⟨0#32, false⟩ := by
  have h0 : n ≠ 0 := by omega
  have h32 : ¬n ≤ 32 := by omega
  simp [shiftWithCarryOut, h0, h32]

end

/-! ### The obligations of the family -/

/-- Settles O12: the three outputs of R80; bit 31 is the sign that R82 compares. -/
theorem addWithCarryOutcome : Obligations.AddWithCarryOutcome := by
  intro x y cin
  have hoverflow := addWithCarry_overflow_iff x y cin
  simp only [BitVec.msb_eq_getLsbD_last] at hoverflow
  exact ⟨addWithCarry_result_toNat x y cin, addWithCarry_carryOut_iff x y cin, hoverflow⟩

/-- Settles O15: one range of the amount at a time; the two equations at 32 are the ends of the ranges from 1 to 32. -/
theorem shiftWithCarryOutcome : Obligations.ShiftWithCarryOutcome := by
  intro x n cin
  refine ⟨?zero, shiftWithCarryOut_lsl x cin, shiftWithCarryOut_lsr x cin, ?at32, shiftWithCarryOut_ge_33 x cin⟩
  case zero =>
    rintro kind rfl
    exact shiftWithCarryOut_zero x kind cin
  case at32 =>
    rintro rfl
    exact ⟨shiftWithCarryOut_lsl_32 x cin, shiftWithCarryOut_lsr_32 x cin⟩

end Sys2Proof.Machine
end

section
/-!
PROOFS. Decode (41_decode.md): it answers the value extracted for the entry that identifies the word, else the failure
(R100, R114), and each extractor takes the fields its rule names (R103 to R113).
-/

namespace Sys2Proof

open Sys2Proof.Safety

/-! ### The search through the catalog (R100) -/

/-- The catalog is searched from the smallest priority number up. -/
theorem catalog_pairwise_priority : catalog.Pairwise fun u v => u.priority < v.priority := by decide

/-- Every entry before the first raw match fails to match, so the first raw match identifies the word. -/
theorem identify_of_find?_eq_some {v : Variant} {w : HWord} (h : catalog.find? (fun u => rawMatch u w) = some v) :
    identify v w = true := by
  obtain ⟨hv, before, after, hcat, hbefore⟩ := List.find?_eq_some_iff_append.mp h
  refine identify_iff.mpr ⟨hv, fun u hu => ?_⟩
  obtain ⟨-, hrest, -⟩ := List.pairwise_append.mp (hcat ▸ catalog_pairwise_priority)
  obtain ⟨hafter, -⟩ := List.pairwise_cons.mp hrest
  have hmem : u ∈ before ++ v :: after := hcat ▸ mem_catalog u
  obtain hu_before | rfl | hu_after : u ∈ before ∨ u = v ∨ u ∈ after := by simpa using hmem
  · simpa using hbefore u hu_before
  · exact absurd hu (lt_irrefl _)
  · exact absurd hu (hafter u hu_after).not_gt

/-- What Decode can answer: the extracted value of the entry that identifies the word, or the failure with the word if no
entry raw-matches. -/
theorem decode_cases (w : HWord) :
    (∃ v, identify v w = true ∧ decode w = .variant (extract v w)) ∨
      ((∀ v, rawMatch v w = false) ∧ decode w = .unrecognized w) := by
  cases hfind : catalog.find? fun u => rawMatch u w
  case some v => exact .inl ⟨v, identify_of_find?_eq_some hfind, by simp [decode, hfind]⟩
  case none =>
    have hno := List.find?_eq_none.mp hfind
    exact .inr ⟨fun v => by simpa using hno v (mem_catalog v), by simp [decode, hfind]⟩

/-- R100: the one entry that identifies a word is the entry Decode extracts. -/
theorem decode_of_identify {v : Variant} {w : HWord} (hv : identify v w = true) :
    decode w = .variant (extract v w) := by
  have hraw := rawMatch_of_identify hv
  obtain ⟨u, hu, hdec⟩ | ⟨hno, -⟩ := decode_cases w
  · rw [hdec, identifyIsExclusive w u v hu hv]
  · simp [hno v] at hraw

theorem decode_eq_variant_iff {w : HWord} {i : Instr} :
    decode w = .variant i ↔ ∃ v, identify v w = true ∧ extract v w = i := by
  constructor
  · intro h
    obtain ⟨v, hv, hdec⟩ | ⟨-, hdec⟩ := decode_cases w
    · exact ⟨v, hv, Decoded.variant.inj (hdec.symm.trans h)⟩
    · simp [hdec] at h
  · rintro ⟨v, hv, rfl⟩
    exact decode_of_identify hv

/-- R114: the failure carries the word unchanged. -/
theorem decode_eq_unrecognized_iff {u w : HWord} :
    decode w = .unrecognized u ↔ u = w ∧ ∀ v, rawMatch v w = false := by
  obtain ⟨v, hv, hdec⟩ | ⟨hno, hdec⟩ := decode_cases w
  · have hmatch : ¬∀ v, rawMatch v w = false := fun hno => by simpa [hno v] using rawMatch_of_identify hv
    simp [hdec, hmatch]
  · simp [hdec, hno, eq_comm]

@[simp] theorem tag_extract (v : Variant) (w : HWord) : (extract v w).tag = v := by
  cases v <;> rfl

/-! ### The fields of a word as numbers (R66) -/

theorem toNat_field (w : HWord) (lo n : Nat) : (w.extractLsb' lo n).toNat = w.toNat / 2 ^ lo % 2 ^ n := by
  rw [BitVec.extractLsb'_toNat, Nat.shiftRight_eq_div_pow]

@[simp] theorem regNumber_lowAt (w : HWord) (lo : Nat) : regNumber (lowReg (lowAt w lo)) = w.toNat / 2 ^ lo % 8 :=
  toNat_field w lo 3

/-- The register a 4-bit index names has that number (R22). -/
theorem regNumber_regOfBits (b : BitVec 4) : regNumber (regOfBits b) = b.toNat := by
  unfold regOfBits
  split_ifs with hgen hsp hlr
  · rfl
  · simp [hsp, regNumber]
  · simp [hlr, regNumber]
  · simp only [regNumber]
    bv_omega

@[simp] theorem regNumber_sp : regNumber .sp = 13 := rfl

@[simp] theorem regNumber_rmHigh (w : HWord) : regNumber (rmHigh w) = w.toNat / 8 % 16 := by
  rw [rmHigh, regNumber_regOfBits]
  exact toNat_field w 3 4

/-- The split field: bit 7 is the index's bit 3. -/
@[simp] theorem regNumber_rdHigh (w : HWord) : regNumber (rdHigh w) = w.toNat / 128 % 2 * 8 + w.toNat % 8 := by
  have hlow : (w.extractLsb' 0 3).toNat < 2 ^ 3 := BitVec.isLt _
  rw [rdHigh, regNumber_regOfBits, BitVec.toNat_append, ← Nat.shiftLeft_add_eq_or_of_lt hlow, Nat.shiftLeft_eq,
    toNat_field, toNat_field]
  simp

/-! ### The row a decoded word fills (R101) -/

@[simp] theorem members_setflags (i : Instr) : i.members.setflags = i.tag.setflags := by
  cases i <;> rfl

/-- The row is the one of the extracted value, with the policy of the entry that identifies the word. -/
theorem fields_decode_of_identify {v : Variant} {w : HWord} (hv : identify v w = true) :
    fields (decode w) =
      some (regNumber (extract v w).members.rd, (extract v w).members.rn.map regNumber,
        (extract v w).members.rm.map regNumber, (extract v w).members.imm, v.setflags) := by
  rw [decode_of_identify hv]
  simp [fields]

/-! ### The obligations of the family -/

/-- Settles O41: Decode answers for the entry that identifies the word, and an extracted value carries its entry's tag. -/
theorem decodeTakesTheIdentifiedEntry : Obligations.DecodeTakesTheIdentifiedEntry := by
  intro w
  refine ⟨fun v => ⟨fun hv => ⟨extract v w, decode_of_identify hv, tag_extract v w⟩, ?_⟩,
    fun v hv hfirst => decode_of_identify (identify_iff.mpr ⟨hv, hfirst⟩), fun u => decode_eq_unrecognized_iff⟩
  rintro ⟨i, hdec, rfl⟩
  obtain ⟨v, hv, rfl⟩ := decode_eq_variant_iff.mp hdec
  rwa [tag_extract]

/-- Settles O42: for each entry, Decode is its extractor, whose members are the fields of the word as numbers. -/
theorem extractedFields : Obligations.ExtractedFields := by
  intro w
  refine ⟨?addSpSp, ?addRdSp, ?addHi, ?addLo, ?subLo, ?addI3, ?addI8, ?lslI, ?lsrI, ?lslR, ?lsrR⟩
  all_goals
    intro hv
    rw [fields_decode_of_identify hv]
  case addI3 | addI8 | lslI | lsrI => simp [extract, Instr.members, Variant.setflags, Nat.shiftRight_eq_div_pow]
  all_goals simp [extract, Instr.members, Variant.setflags]

end Sys2Proof
end

section
/-!
PROOFS. The ADD family (42_add.md): a low-register destination with the flags of the exact sum (R121 to R123), a NEVER
variant as one register write (R124 to R126), and where control can go (R127).
-/

namespace Sys2Proof.Machine

open Sys2Proof.Safety

/-! ### The outputs of the ALU as flags of the sum (R80 to R82) -/

/-- The sign comparison of R82 against the unbounded signed sum. -/
theorem addWithCarry_overflow_iff_toInt (x y : Word) (cin : Bool) :
    (addWithCarry x y cin).overflow = true ↔ x.toInt + y.toInt + cin.toNat ≠ (addWithCarry x y cin).result.toInt := by
  have hx := x.isLt
  have hy := y.isLt
  have hcin : cin.toNat ≤ 1 := cin.toNat_le
  simp only [addWithCarry_overflow_iff, BitVec.msb_eq_decide, BitVec.toInt_eq_toNat_cond, addWithCarry_result_toNat,
    ne_eq, decide_eq_decide]
  omega

theorem addFlags_eq_addWithCarry (x y : Word) :
    addFlags x y =
      ⟨(x + y).msb, decide (x + y = 0#32), (addWithCarry x y false).carryOut, (addWithCarry x y false).overflow⟩ := by
  have hoverflow := addWithCarry_overflow_iff_toInt x y false
  have hv : decide (x.toInt + y.toInt ≠ (x + y).toInt) = (addWithCarry x y false).overflow := by
    rw [Bool.eq_iff_iff, hoverflow]
    simp
  rw [addFlags, hv]
  rfl

/-! ### A low-register destination (R121 to R123) -/

@[simp] theorem Registers.write_lowReg (p : Params) (R : Registers) (r : LowReg) (v : Word) :
    R.write p (lowReg r) v = ⟨withLow R r v, false⟩ := rfl

/-- Policy NOT_IT commits what `gated` describes (R90, R91). -/
theorem commitFlags_notIt_eq_gated (s : State) (result : Word) (c : Bool) (vOpt : Option Bool) :
    commitFlags .notIt s.inItBlock result c vOpt s.regs.flags =
      gated s ⟨result.msb, decide (result = 0#32), c, vOpt.getD s.regs.flags.v⟩ := by
  cases h : s.inItBlock <;> simp [gated, h]

/-- What every flag-setting variant leaves, its result, carry and V given. -/
theorem complete_finish_lowReg (p : Params) (s : State) (rd : LowReg) (result : Word) (c : Bool) (vOpt : Option Bool) :
    s.complete (finish p .notIt s.inItBlock s.regs (lowReg rd) result c vOpt) =
      .next (afterLow s rd result ⟨result.msb, decide (result = 0#32), c, vOpt.getD s.regs.flags.v⟩) := by
  rw [finish_eq, commitFlags_notIt_eq_gated, Registers.write_lowReg]
  rfl

/-- An addition into a low register. -/
theorem complete_arithmetic_lowReg (p : Params) (s : State) (rd : LowReg) (x y : Word) :
    s.complete (arithmetic p .notIt s.inItBlock s.regs (lowReg rd) x y false) =
      .next (afterLow s rd (x + y) (addFlags x y)) := by
  simp [arithmetic, complete_finish_lowReg, addFlags_eq_addWithCarry]

/-! ### The variants of policy NEVER (R124 to R126) -/

/-- An addition of policy NEVER is the register write of the sum and nothing else. -/
theorem arithmetic_never (p : Params) (it : Bool) (R : Registers) (rd : Reg) (x y : Word) :
    arithmetic p .never it R rd x y false = R.write p rd (x + y) := by
  have hflags : (R.write p rd (x + y)).regs.setFlags R.flags = (R.write p rd (x + y)).regs := by
    rw [← R.write_flags p rd (x + y)]
    rfl
  simp only [arithmetic, finish, addWithCarry_result_add, commitFlags_never, hflags]

theorem execute_addSpSp (p : Params) (rm : Reg) (R : Registers) (it : Bool) :
    execute p (.addSpSp rm) R it = R.write p .sp (R.read p .sp + R.read p rm) :=
  arithmetic_never p it R .sp _ _

theorem exec_addHi (rdn rm : Reg) (s : State) :
    exec (.addHi rdn rm) s =
      s.complete (s.regs.write Config.params rdn (s.regs.read Config.params rdn + s.regs.read Config.params rm)) :=
  congrArg s.complete (arithmetic_never _ _ _ rdn _ _)

theorem exec_addRdSp (rdm : Reg) (s : State) :
    exec (.addRdSp rdm) s =
      s.complete (s.regs.write Config.params rdm (s.regs.sp + s.regs.read Config.params rdm)) :=
  congrArg s.complete (arithmetic_never _ _ _ rdm _ _)

/-! ### Where control can go (R127) -/

theorem exec_eq_next (i : Instr) (s : State) : ∃ t : State, exec i s = .next t :=
  ⟨_, exec_eq_complete i s⟩

theorem members_rd_eq_pc_iff (i : Instr) :
    i.members.rd = .pc ↔ i = .addRdSp .pc ∨ ∃ rm : Reg, i = .addHi .pc rm := by
  cases i <;> simp [Instr.members, lowReg]

theorem Registers.write_pc_of_ne (p : Params) (R : Registers) {r : Reg} (h : r ≠ .pc) (v : Word) :
    (R.write p r v).regs.pc = R.pc := by
  cases r <;> simp_all

theorem Registers.write_lr_of_ne (p : Params) (R : Registers) {r : Reg} (h : r ≠ .lr) (v : Word) :
    (R.write p r v).regs.lr = R.lr := by
  cases r <;> simp_all

/-- The target of an addition into PC: bit 0 of the sum cleared. -/
theorem clearBit0_add_toNat (pc x : Word) :
    (clearBit0 (pc + 4#32 + x)).toNat = (pc.toNat + 4 + x.toNat) % 2 ^ 32 / 2 * 2 := by
  simp [clearBit0_toNat, BitVec.toNat_add]

/-! ### The obligations of the family -/

/-- Settles O22: the low-register addition of two registers. -/
theorem addLowRegisters : Obligations.AddLowRegisters := by
  intro s rd rn rm
  exact complete_arithmetic_lowReg Config.params s rd (lowValue s.regs rn) (lowValue s.regs rm)

/-- Settles O23: the low-register addition of the zero-extended 3-bit field. -/
theorem addImmediate3 : Obligations.AddImmediate3 := by
  intro s rd rn imm
  rw [BitVec.ofNat_toNat]
  exact complete_arithmetic_lowReg Config.params s rd (lowValue s.regs rn) (zext32 imm)

/-- Settles O24: the low-register addition of the zero-extended 8-bit field. -/
theorem addImmediate8 : Obligations.AddImmediate8 := by
  intro s rdn imm
  rw [BitVec.ofNat_toNat]
  exact complete_arithmetic_lowReg Config.params s rdn (lowValue s.regs rdn) (zext32 imm)

/-- Settles O25: one register write of the sum, for each kind of destination. -/
theorem addHighRegister : Obligations.AddHighRegister := by
  intro s rm
  exact ⟨fun k => exec_addHi (.gen k) rm s, exec_addHi .lr rm s, exec_addHi .pc rm s⟩

/-- Settles O26: one register write of the sum with the selected bank, for each kind of destination. -/
theorem addStackPointerToRegister : Obligations.AddStackPointerToRegister := by
  intro s sp hsp
  rw [← Registers.sp_eq_ite] at hsp
  subst hsp
  exact ⟨fun k => exec_addRdSp (.gen k) s, exec_addRdSp .lr s, exec_addRdSp .pc s⟩

/-- Settles O27: the write of SP is a masked store to the selected bank. -/
theorem addToStackPointer : Obligations.AddToStackPointer := by
  intro p R it rm
  rw [execute_addSpSp, withSelectedBank_eq_setSp, ← Registers.sp_eq_ite]
  rfl

/-- Settles O31: every Execute is one write to the decoded destination; a write to PC is one of the two sums. -/
theorem controlTransferOnlyByAddToPc : Obligations.ControlTransferOnlyByAddToPc := by
  intro i s
  obtain ⟨t, ht⟩ := exec_eq_next i s
  obtain ⟨result, c, vOpt, hregs, hcf, -, -⟩ := exec_cases ht
  refine ⟨t, ht, ?transfer, ?pc, ?lr, ?addHi, ?addRdSp⟩
  case transfer => rw [hcf, decide_eq_true_iff, members_rd_eq_pc_iff]
  case pc =>
    intro hfalse
    have hrd : i.members.rd ≠ .pc := by simpa [hcf] using hfalse
    rw [hregs]
    exact s.regs.write_pc_of_ne _ hrd result
  case lr =>
    intro hrd
    rw [hregs]
    exact s.regs.write_lr_of_ne _ hrd result
  case addHi =>
    rintro rm rfl
    obtain ⟨hnext, -, -, -⟩ := complete_eq_next ((exec_addHi .pc rm s).symm.trans ht)
    rw [hnext]
    exact clearBit0_add_toNat _ _
  case addRdSp =>
    rintro rfl
    obtain ⟨hnext, -, -, -⟩ := complete_eq_next ((exec_addRdSp .pc s).symm.trans ht)
    rw [hnext, BitVec.add_comm]
    exact clearBit0_add_toNat _ _

end Sys2Proof.Machine
end

section
/-!
PROOFS. The SUB family (43_sub.md): the outputs of `x + NOT(y) + 1` are the flags of the difference (R83), so SUB_LO leaves
the difference and its flags (R140).
-/

namespace Sys2Proof.Machine

open Sys2Proof.Safety

/-! ### The outputs of the ALU on `x + NOT(y) + 1` as flags of the difference (R83) -/

section
variable (x y : Word)

@[simp] theorem addWithCarry_result_sub : (addWithCarry x (~~~y) true).result = x - y := by
  rw [addWithCarry_result_carry, BitVec.add_assoc, ← BitVec.neg_eq_not_add, ← BitVec.sub_eq_add_neg]

/-- The carry of a subtraction is "no borrow". -/
theorem addWithCarry_carryOut_sub : (addWithCarry x (~~~y) true).carryOut = decide (y.toNat ≤ x.toNat) := by
  rw [Bool.eq_iff_iff, addWithCarry_carryOut_iff, decide_eq_true_iff, BitVec.toNat_not, Bool.toNat_true]
  omega

/-- The complement as a signed number: no reduction modulo 2^32 takes place. -/
theorem toInt_complement : (~~~y).toInt = -y.toInt - 1 := by
  have hy := y.isLt
  simp only [BitVec.toInt_eq_toNat_cond, BitVec.toNat_not]
  omega

/-- The overflow of a subtraction is that of the signed difference. -/
theorem addWithCarry_overflow_sub :
    (addWithCarry x (~~~y) true).overflow = decide (x.toInt - y.toInt ≠ (x - y).toInt) := by
  have hdiff : x.toInt + (~~~y).toInt + (true.toNat : Int) = x.toInt - y.toInt := by
    rw [toInt_complement, Bool.toNat_true]
    omega
  rw [Bool.eq_iff_iff, addWithCarry_overflow_iff_toInt, hdiff, addWithCarry_result_sub, decide_eq_true_iff]

theorem subFlags_eq_addWithCarry :
    subFlags x y =
      ⟨(x - y).msb, decide (x - y = 0#32), (addWithCarry x (~~~y) true).carryOut,
        (addWithCarry x (~~~y) true).overflow⟩ := by
  have hz : x - y = 0#32 ↔ x = y := sub_eq_zero
  simp only [subFlags, hz, addWithCarry_carryOut_sub, addWithCarry_overflow_sub]

end

/-! ### A low-register destination (R140) -/

/-- A subtraction into a low register. -/
theorem complete_arithmetic_lowReg_sub (p : Params) (s : State) (rd : LowReg) (x y : Word) :
    s.complete (arithmetic p .notIt s.inItBlock s.regs (lowReg rd) x (~~~y) true) =
      .next (afterLow s rd (x - y) (subFlags x y)) := by
  simp [arithmetic, complete_finish_lowReg, subFlags_eq_addWithCarry]

/-! ### The obligation of the family -/

/-- Settles O33: the low-register subtraction of two registers. -/
theorem subLowRegisters : Obligations.SubLowRegisters := by
  intro s rd rn rm
  exact complete_arithmetic_lowReg_sub Config.params s rd (lowValue s.regs rn) (lowValue s.regs rm)

end Sys2Proof.Machine
end

section
/-!
PROOFS. The shift family (44_shift.md): the carry out at every amount (R84 to R88), the amount an instruction names
(R150, R151), and what a shift into a low register leaves (R152 to R155).
-/

namespace Sys2Proof.Machine

open Sys2Proof.Safety

/-! ### The carry out at every amount (R84 to R88) -/

section
variable (x : Word) (n : Nat) (cin : Bool)

theorem shiftWithCarryOut_lsl_carryOut_eq_ite :
    (shiftWithCarryOut x .lsl n cin).carryOut =
      if n = 0 then cin else if n ≤ 32 then x.getLsbD (32 - n) else false := by
  split_ifs with h0 h32
  · rw [h0, shiftWithCarryOut_zero]
  · exact shiftWithCarryOut_lsl_carryOut x cin (Nat.one_le_iff_ne_zero.mpr h0) h32
  · rw [shiftWithCarryOut_ge_33 x cin .lsl (Nat.lt_of_not_le h32)]

theorem shiftWithCarryOut_lsr_carryOut_eq_ite :
    (shiftWithCarryOut x .lsr n cin).carryOut =
      if n = 0 then cin else if n ≤ 32 then x.getLsbD (n - 1) else false := by
  split_ifs with h0 h32
  · rw [h0, shiftWithCarryOut_zero]
  · exact shiftWithCarryOut_lsr_carryOut x cin (Nat.one_le_iff_ne_zero.mpr h0) h32
  · rw [shiftWithCarryOut_ge_33 x cin .lsr (Nat.lt_of_not_le h32)]

end

/-! ### The amount (R150, R151) -/

theorem immAmount_lsr_of_eq_zero {imm : BitVec 5} (h : imm.toNat = 0) : immAmount .lsr imm = 32 := if_pos h

theorem immAmount_lsr_of_ne_zero {imm : BitVec 5} (h : imm.toNat ≠ 0) : immAmount .lsr imm = imm.toNat := if_neg h

theorem regAmount_eq_mod (v : Word) : regAmount v = v.toNat % 256 := BitVec.extractLsb'_toNat ..

/-! ### A shift into a low register (R152 to R155) -/

section
variable (p : Params) (s : State) (rd : LowReg) (x : Word) (n : Nat)

/-- The outputs of the shifter, V kept. -/
theorem complete_shifting_lowReg (kind : ShiftKind) :
    s.complete (shifting p .notIt s.inItBlock s.regs (lowReg rd) x kind n) =
      .next (afterLow s rd (shiftWithCarryOut x kind n s.regs.flags.c).result
        (shiftFlags (shiftWithCarryOut x kind n s.regs.flags.c).result
          (shiftWithCarryOut x kind n s.regs.flags.c).carryOut s.regs.flags)) :=
  complete_finish_lowReg p s rd _ _ none

theorem complete_shifting_lowReg_lsl :
    s.complete (shifting p .notIt s.inItBlock s.regs (lowReg rd) x .lsl n) =
      .next (afterLow s rd (x <<< n)
        (shiftFlags (x <<< n) (if n = 0 then s.regs.flags.c else if n ≤ 32 then x.getLsbD (32 - n) else false)
          s.regs.flags)) := by
  rw [complete_shifting_lowReg, shiftWithCarryOut_lsl_result, shiftWithCarryOut_lsl_carryOut_eq_ite]

theorem complete_shifting_lowReg_lsr :
    s.complete (shifting p .notIt s.inItBlock s.regs (lowReg rd) x .lsr n) =
      .next (afterLow s rd (x >>> n)
        (shiftFlags (x >>> n) (if n = 0 then s.regs.flags.c else if n ≤ 32 then x.getLsbD (n - 1) else false)
          s.regs.flags)) := by
  rw [complete_shifting_lowReg, shiftWithCarryOut_lsr_result, shiftWithCarryOut_lsr_carryOut_eq_ite]

end

/-- LSR_I as one shift by the amount its field names. -/
theorem exec_lsrI (rd rm : LowReg) (imm : BitVec 5) (s : State) :
    exec (.lsrI rd rm imm) s =
      s.complete (shifting Config.params .notIt s.inItBlock s.regs (lowReg rd) (lowValue s.regs rm) .lsr
        (immAmount .lsr imm)) := rfl

/-! ### The obligations of the family -/

/-- Settles O34: a left shift by the raw field, which is below 32. -/
theorem shiftLeftImmediate : Obligations.ShiftLeftImmediate := by
  intro s rd rm imm
  have hle : imm.toNat ≤ 32 := imm.isLt.le
  have hexec : exec (.lslI rd rm imm) s = _ :=
    complete_shifting_lowReg_lsl Config.params s rd (lowValue s.regs rm) imm.toNat
  rwa [if_pos hle] at hexec

/-- Settles O35: a right shift by the field, or by 32 for a field of 0, where the last bit out is bit 31. -/
theorem shiftRightImmediate : Obligations.ShiftRightImmediate := by
  intro s rd rm imm
  rw [exec_lsrI]
  constructor
  · intro hne
    have hle : imm.toNat ≤ 32 := imm.isLt.le
    rw [immAmount_lsr_of_ne_zero hne, complete_shifting_lowReg_lsr, if_neg hne, if_pos hle]
  · intro hzero
    rw [immAmount_lsr_of_eq_zero hzero, complete_shifting_lowReg, shiftWithCarryOut_lsr_32]

/-- Settles O36: a left shift by the low byte of the amount register. -/
theorem shiftLeftRegister : Obligations.ShiftLeftRegister := by
  rintro s rdn rm _ rfl
  rw [← regAmount_eq_mod]
  exact complete_shifting_lowReg_lsl Config.params s rdn (lowValue s.regs rdn) (regAmount (lowValue s.regs rm))

/-- Settles O37: a right shift by the low byte of the amount register. -/
theorem shiftRightRegister : Obligations.ShiftRightRegister := by
  rintro s rdn rm _ rfl
  rw [← regAmount_eq_mod]
  exact complete_shifting_lowReg_lsr Config.params s rdn (lowValue s.regs rdn) (regAmount (lowValue s.regs rm))

end Sys2Proof.Machine
end

section
/-!
PROOFS. Faults (60_exceptions.md): Decode alone fails; every Execute completes (R175).
-/

namespace Sys2Proof.Machine

/-- Settles O5: `exec` is the core's Execute completed, and completing always answers a next state. -/
theorem executeIsTotal : Obligations.ExecuteIsTotal := exec_eq_next

end Sys2Proof.Machine
end

section
/-!
PROOFS. Decode and encode (41_decode.md section 5). The three high-register forms share one format, in which SP as
destination or as operand selects the two forms that go first (30_encoding.md R53); every other raw match is alone. So an
entry identifies a word iff it raw-matches it and extracts a well-formed value, and Decode and encode undo each other.
-/

namespace Sys2Proof

open Sys2Proof.Safety

/-! ### What a raw match says of a word (R51) -/

section
variable {u v : Variant} {w : HWord}

theorem rawMatch_iff : rawMatch v w = true ↔ w &&& v.mask = v.pattern := by
  simp [rawMatch]

/-- A raw match fixes every field the mask covers. -/
theorem extractLsb'_of_rawMatch {lo n : Nat} (h : rawMatch v w = true)
    (hcover : v.mask.extractLsb' lo n = BitVec.allOnes n) : w.extractLsb' lo n = v.pattern.extractLsb' lo n := by
  rw [← rawMatch_iff.mp h, BitVec.extractLsb'_and, hcover, BitVec.and_allOnes]

/-- An entry whose mask and pattern extend those of `v` raw-matches only words `v` raw-matches. -/
theorem rawMatch_of_refines (h : rawMatch u w = true) (hmask : u.mask &&& v.mask = v.mask)
    (hpattern : u.pattern &&& v.mask = v.pattern) : rawMatch v w = true := by
  rw [rawMatch_iff, ← hpattern, ← rawMatch_iff.mp h, BitVec.and_assoc, hmask]

/-- Two entries that raw-match one word have patterns that agree where both masks look. -/
theorem pattern_agrees_of_rawMatch (hu : rawMatch u w = true) (hv : rawMatch v w = true) :
    u.pattern &&& v.mask = v.pattern &&& u.mask := by
  rw [← rawMatch_iff.mp hu, ← rawMatch_iff.mp hv, BitVec.and_assoc, BitVec.and_assoc, BitVec.and_comm u.mask]

/-- An entry whose mask selects the high bits from bit `k` up raw-matches an interval of words. -/
theorem rawMatch_iff_div {k : Nat} (hmask : v.mask = BitVec.allOnes 16 <<< k)
    (hpattern : v.pattern.toNat = v.pattern.toNat / 2 ^ k * 2 ^ k) :
    rawMatch v w = true ↔ w.toNat / 2 ^ k = v.pattern.toNat / 2 ^ k := by
  have hle : w.toNat / 2 ^ k * 2 ^ k ≤ w.toNat := Nat.div_mul_le_self _ _
  have hlt := hle.trans_lt w.isLt
  rw [rawMatch_iff, hmask, ← BitVec.shiftLeft_ushiftRight, ← BitVec.toNat_inj, BitVec.toNat_shiftLeft,
    BitVec.toNat_ushiftRight, Nat.shiftRight_eq_div_pow, Nat.shiftLeft_eq, Nat.mod_eq_of_lt hlt, hpattern,
    Nat.mul_div_cancel _ (Nat.two_pow_pos k)]
  exact Nat.mul_left_inj (Nat.two_pow_pos k).ne'

end

/-! ### Register fields and their bits (R22, R66) -/

@[simp] theorem bitsOfReg_regOfBits : ∀ b : BitVec 4, bitsOfReg (regOfBits b) = b := by decide

@[simp] theorem regOfBits_bitsOfReg (r : Reg) : regOfBits (bitsOfReg r) = r := by
  cases r
  case gen i => revert i; decide
  all_goals rfl

theorem bitsOfReg_rmHigh (w : HWord) : bitsOfReg (rmHigh w) = w.extractLsb' 3 4 := bitsOfReg_regOfBits _

theorem bitsOfReg_rdHigh (w : HWord) : bitsOfReg (rdHigh w) = w.extractLsb' 7 1 ++ w.extractLsb' 0 3 :=
  bitsOfReg_regOfBits _

/-! ### The high-register format: SP in a field selects the form (R53) -/

theorem encode_addSpSp (rm : Reg) : encode (.addSpSp rm) = encode (.addHi .sp rm) := by
  have h : ∀ b : BitVec 4,
      (0b010001001#9 ++ b ++ 0b101#3 : HWord) =
        0b01000100#8 ++ (13#4).extractLsb' 3 1 ++ b ++ (13#4).extractLsb' 0 3 := by decide
  exact h (bitsOfReg rm)

theorem encode_addRdSp (rdm : Reg) : encode (.addRdSp rdm) = encode (.addHi rdm .sp) := rfl

theorem rmHigh_encode_addHi (rdn rm : Reg) : rmHigh (encode (.addHi rdn rm)) = rm := by
  simp (disch := decide) only [rmHigh, encode, BitVec.extractLsb'_append_eq_of_add_le,
    BitVec.extractLsb'_append_eq_of_le, Nat.reduceSub, BitVec.extractLsb'_eq_self, regOfBits_bitsOfReg]

theorem rdHigh_encode_addHi (rdn rm : Reg) : rdHigh (encode (.addHi rdn rm)) = rdn := by
  simp (disch := decide) only [rdHigh, encode, BitVec.extractLsb'_append_eq_of_add_le,
    BitVec.extractLsb'_append_eq_of_le, Nat.reduceSub, BitVec.extractLsb'_eq_self,
    BitVec.extractLsb'_append_extractLsb'_eq_extractLsb', regOfBits_bitsOfReg]

theorem encode_extract_addHi {w : HWord} (h : rawMatch .addHi w = true) :
    encode (.addHi (rdHigh w) (rmHigh w)) = w := by
  have hop : w.extractLsb' 8 8 = 0b01000100#8 := extractLsb'_of_rawMatch h rfl
  simp (disch := decide) only [encode, ← hop, bitsOfReg_rdHigh, bitsOfReg_rmHigh,
    BitVec.extractLsb'_append_eq_of_add_le, BitVec.extractLsb'_append_eq_of_le, Nat.reduceSub, BitVec.extractLsb'_eq_self,
    BitVec.extractLsb'_append_extractLsb'_eq_extractLsb']

theorem rawMatch_addSpSp_iff {w : HWord} : rawMatch .addSpSp w = true ↔ rawMatch .addHi w = true ∧ rdHigh w = .sp := by
  constructor
  · intro h
    have hhigh : w.extractLsb' 7 1 = 1#1 := extractLsb'_of_rawMatch h rfl
    have hlow : w.extractLsb' 0 3 = 5#3 := extractLsb'_of_rawMatch h rfl
    refine ⟨rawMatch_of_refines h rfl rfl, ?_⟩
    rw [rdHigh, hhigh, hlow]
    rfl
  · rintro ⟨h, hrd⟩
    have hw := encode_extract_addHi h
    rw [hrd, ← encode_addSpSp] at hw
    rw [← hw]
    exact Laws.FixedBits.addSpSp (rmHigh w)

theorem rawMatch_addRdSp_iff {w : HWord} : rawMatch .addRdSp w = true ↔ rawMatch .addHi w = true ∧ rmHigh w = .sp := by
  constructor
  · intro h
    have hfield : w.extractLsb' 3 4 = 13#4 := extractLsb'_of_rawMatch h rfl
    refine ⟨rawMatch_of_refines h rfl rfl, ?_⟩
    rw [rmHigh, hfield]
    rfl
  · rintro ⟨h, hrm⟩
    have hw := encode_extract_addHi h
    rw [hrm, ← encode_addRdSp] at hw
    rw [← hw]
    exact Laws.FixedBits.addRdSp (rdHigh w)

/-! ### Only the high-register forms overlap -/

/-- The entries of the high-register format. -/
abbrev highForms : List Variant := [.addSpSp, .addRdSp, .addHi]

theorem pattern_disagrees : ∀ u ∈ catalog, ∀ v ∈ catalog, u ≠ v →
    u.pattern &&& v.mask = v.pattern &&& u.mask → u ∈ highForms ∧ v ∈ highForms := by
  decide

theorem mem_highForms_of_rawMatch_of_ne {u v : Variant} {w : HWord} (huv : u ≠ v) (hu : rawMatch u w = true)
    (hv : rawMatch v w = true) : u ∈ highForms ∧ v ∈ highForms :=
  pattern_disagrees u (mem_catalog u) v (mem_catalog v) huv (pattern_agrees_of_rawMatch hu hv)

theorem rawMatch_addHi_of_mem_highForms {v : Variant} {w : HWord} (hmem : v ∈ highForms) (hv : rawMatch v w = true) :
    rawMatch .addHi w = true := by
  simp only [List.mem_cons, List.not_mem_nil, or_false] at hmem
  obtain rfl | rfl | rfl := hmem
  · exact (rawMatch_addSpSp_iff.mp hv).1
  · exact (rawMatch_addRdSp_iff.mp hv).1
  · exact hv

theorem identify_iff_rawMatch_of_not_mem_highForms {v : Variant} {w : HWord} (hmem : v ∉ highForms) :
    identify v w = true ↔ rawMatch v w = true := by
  refine identify_iff.trans (and_iff_left_of_imp fun hv u hlt => ?_)
  have huv : u ≠ v := fun heq => hlt.ne (congrArg _ heq)
  by_contra hu
  exact hmem (mem_highForms_of_rawMatch_of_ne huv (by simpa using hu) hv).2

theorem identify_addSpSp_iff {w : HWord} : identify .addSpSp w = true ↔ rawMatch .addSpSp w = true := by
  simp [identify, catalog, Variant.priority]

theorem identify_addRdSp_iff {w : HWord} :
    identify .addRdSp w = true ↔ rawMatch .addRdSp w = true ∧ rdHigh w ≠ .sp := by
  have hfirst : identify .addRdSp w = true ↔ rawMatch .addRdSp w = true ∧ ¬rawMatch .addSpSp w = true := by
    simp [identify, catalog, Variant.priority]
  rw [hfirst]
  refine and_congr_right fun h => ?_
  simp [rawMatch_addSpSp_iff, rawMatch_addHi_of_mem_highForms _ h]

theorem identify_addHi_iff {w : HWord} :
    identify .addHi w = true ↔ rawMatch .addHi w = true ∧ rdHigh w ≠ .sp ∧ rmHigh w ≠ .sp := by
  have hfirst : identify .addHi w = true ↔
      rawMatch .addHi w = true ∧ ¬rawMatch .addSpSp w = true ∧ ¬rawMatch .addRdSp w = true := by
    simp [identify, catalog, Variant.priority]
  rw [hfirst]
  refine and_congr_right fun h => ?_
  simp [rawMatch_addSpSp_iff, rawMatch_addRdSp_iff, h]

/-- Priority resolution in terms of the table of R101: what goes first is what well-formedness rules out. -/
theorem identify_iff_wf {v : Variant} {w : HWord} :
    identify v w = true ↔ rawMatch v w = true ∧ (extract v w).wf = true := by
  cases v
  case addSpSp => simp [identify_addSpSp_iff, extract, Instr.wf]
  case addRdSp => simp [identify_addRdSp_iff, extract, Instr.wf]
  case addHi => simp [identify_addHi_iff, extract, Instr.wf]
  all_goals exact (identify_iff_rawMatch_of_not_mem_highForms (by decide)).trans (and_iff_left rfl).symm

/-! ### The fields of each format make up the word (R54 to R64) -/

section
variable {w : HWord}

theorem append_threeFields {op : BitVec 7} (h : w.extractLsb' 9 7 = op) :
    op ++ w.extractLsb' 6 3 ++ w.extractLsb' 3 3 ++ w.extractLsb' 0 3 = w := by
  simp (disch := decide) only [← h, BitVec.extractLsb'_append_extractLsb'_eq_extractLsb', BitVec.extractLsb'_eq_self]

theorem append_imm8 {op : BitVec 5} (h : w.extractLsb' 11 5 = op) :
    op ++ w.extractLsb' 8 3 ++ w.extractLsb' 0 8 = w := by
  simp (disch := decide) only [← h, BitVec.extractLsb'_append_extractLsb'_eq_extractLsb', BitVec.extractLsb'_eq_self]

theorem append_imm5 {op : BitVec 5} (h : w.extractLsb' 11 5 = op) :
    op ++ w.extractLsb' 6 5 ++ w.extractLsb' 3 3 ++ w.extractLsb' 0 3 = w := by
  simp (disch := decide) only [← h, BitVec.extractLsb'_append_extractLsb'_eq_extractLsb', BitVec.extractLsb'_eq_self]

theorem append_twoFields {op : BitVec 10} (h : w.extractLsb' 6 10 = op) :
    op ++ w.extractLsb' 3 3 ++ w.extractLsb' 0 3 = w := by
  simp (disch := decide) only [← h, BitVec.extractLsb'_append_extractLsb'_eq_extractLsb', BitVec.extractLsb'_eq_self]

end

/-! ### Extract and encode undo each other -/

theorem rawMatch_encode : ∀ i : Instr, rawMatch i.tag (encode i) = true
  | .addSpSp rm => Laws.FixedBits.addSpSp rm
  | .addRdSp rdm => Laws.FixedBits.addRdSp rdm
  | .addHi rdn rm => Laws.FixedBits.addHi rdn rm
  | .addLo rd rn rm => Laws.FixedBits.addLo rd rn rm
  | .subLo rd rn rm => Laws.FixedBits.subLo rd rn rm
  | .addI3 rd rn imm => Laws.FixedBits.addI3 rd rn imm
  | .addI8 rdn imm => Laws.FixedBits.addI8 rdn imm
  | .lslI rd rm imm => Laws.FixedBits.lslI rd rm imm
  | .lsrI rd rm imm => Laws.FixedBits.lsrI rd rm imm
  | .lslR rdn rm => Laws.FixedBits.lslR rdn rm
  | .lsrR rdn rm => Laws.FixedBits.lsrR rdn rm

theorem extract_encode (i : Instr) : extract i.tag (encode i) = i := by
  cases i
  case addSpSp rm => exact congrArg Instr.addSpSp (by rw [encode_addSpSp, rmHigh_encode_addHi])
  case addRdSp rdm => exact congrArg Instr.addRdSp (rdHigh_encode_addHi rdm .sp)
  case addHi rdn rm => exact congrArg₂ Instr.addHi (rdHigh_encode_addHi rdn rm) (rmHigh_encode_addHi rdn rm)
  all_goals
    simp (disch := decide) only [Instr.tag, extract, encode, lowAt, BitVec.extractLsb'_append_eq_of_add_le,
      BitVec.extractLsb'_append_eq_of_le, Nat.reduceSub, BitVec.extractLsb'_eq_self]
    rfl

theorem encode_extract {v : Variant} {w : HWord} (h : rawMatch v w = true) : encode (extract v w) = w := by
  cases v
  case addSpSp =>
    obtain ⟨hhi, hrd⟩ := rawMatch_addSpSp_iff.mp h
    rw [extract, encode_addSpSp, ← hrd, encode_extract_addHi hhi]
  case addRdSp =>
    obtain ⟨hhi, hrm⟩ := rawMatch_addRdSp_iff.mp h
    rw [extract, encode_addRdSp, ← hrm, encode_extract_addHi hhi]
  case addHi => exact encode_extract_addHi h
  case addLo | subLo | addI3 => exact append_threeFields (extractLsb'_of_rawMatch h rfl)
  case addI8 => exact append_imm8 (extractLsb'_of_rawMatch h rfl)
  case lslI | lsrI => exact append_imm5 (extractLsb'_of_rawMatch h rfl)
  case lslR | lsrR => exact append_twoFields (extractLsb'_of_rawMatch h rfl)

/-! ### Raw matches as intervals of words (30_encoding.md section 2) -/

section
variable {w : HWord}

theorem rawMatch_addHi_iff_div : rawMatch .addHi w = true ↔ w.toNat / 256 = 0x44 := rawMatch_iff_div (k := 8) rfl rfl
theorem rawMatch_addLo_iff_div : rawMatch .addLo w = true ↔ w.toNat / 512 = 0xC := rawMatch_iff_div (k := 9) rfl rfl
theorem rawMatch_subLo_iff_div : rawMatch .subLo w = true ↔ w.toNat / 512 = 0xD := rawMatch_iff_div (k := 9) rfl rfl
theorem rawMatch_addI3_iff_div : rawMatch .addI3 w = true ↔ w.toNat / 512 = 0xE := rawMatch_iff_div (k := 9) rfl rfl
theorem rawMatch_addI8_iff_div : rawMatch .addI8 w = true ↔ w.toNat / 2048 = 6 := rawMatch_iff_div (k := 11) rfl rfl
theorem rawMatch_lslI_iff_div : rawMatch .lslI w = true ↔ w.toNat / 2048 = 0 := rawMatch_iff_div (k := 11) rfl rfl
theorem rawMatch_lsrI_iff_div : rawMatch .lsrI w = true ↔ w.toNat / 2048 = 1 := rawMatch_iff_div (k := 11) rfl rfl
theorem rawMatch_lslR_iff_div : rawMatch .lslR w = true ↔ w.toNat / 64 = 0x102 := rawMatch_iff_div (k := 6) rfl rfl
theorem rawMatch_lsrR_iff_div : rawMatch .lsrR w = true ↔ w.toNat / 64 = 0x103 := rawMatch_iff_div (k := 6) rfl rfl

/-- Nine intervals: the words of the two SP forms are words of the generic form. -/
theorem exists_rawMatch_iff : (∃ v, rawMatch v w = true) ↔ RecognizedRange w := by
  have hrange : RecognizedRange w ↔
      w.toNat / 256 = 0x44 ∨ w.toNat / 512 = 0xC ∨ w.toNat / 512 = 0xD ∨ w.toNat / 512 = 0xE ∨ w.toNat / 2048 = 6 ∨
        w.toNat / 2048 = 0 ∨ w.toNat / 2048 = 1 ∨ w.toNat / 64 = 0x102 ∨ w.toNat / 64 = 0x103 := by
    unfold RecognizedRange
    omega
  simp only [hrange, ← rawMatch_addHi_iff_div, ← rawMatch_addLo_iff_div, ← rawMatch_subLo_iff_div,
    ← rawMatch_addI3_iff_div, ← rawMatch_addI8_iff_div, ← rawMatch_lslI_iff_div, ← rawMatch_lsrI_iff_div,
    ← rawMatch_lslR_iff_div, ← rawMatch_lsrR_iff_div]
  constructor
  · rintro ⟨v, hv⟩
    cases v
    case addSpSp | addRdSp => exact .inl (rawMatch_addHi_of_mem_highForms (by decide) hv)
    all_goals simp [hv]
  · rintro (h | h | h | h | h | h | h | h | h) <;> exact ⟨_, h⟩

theorem regNumber_eq_sp_iff {r : Reg} : regNumber r = 13 ↔ r = .sp := by
  cases r
  case gen i => simp [regNumber, i.isLt.ne]
  all_goals simp [regNumber]

theorem rdHigh_eq_sp_iff : rdHigh w = .sp ↔ w.toNat / 128 % 2 * 8 + w.toNat % 8 = 13 := by
  rw [← regNumber_eq_sp_iff, regNumber_rdHigh]

theorem rmHigh_eq_sp_iff : rmHigh w = .sp ↔ w.toNat / 8 % 16 = 13 := by
  rw [← regNumber_eq_sp_iff, regNumber_rmHigh]

theorem rawMatch_addSpSp_iff_exists : rawMatch .addSpSp w = true ↔ ∃ m : Nat, m < 16 ∧ w.toNat = 0x4485 + 8 * m := by
  rw [rawMatch_addSpSp_iff, rawMatch_addHi_iff_div, rdHigh_eq_sp_iff]
  constructor
  · rintro ⟨hhi, hrd⟩
    exact ⟨w.toNat / 8 % 16, by omega, by omega⟩
  · rintro ⟨m, hm, hw⟩
    omega

theorem rawMatch_addRdSp_iff_exists :
    rawMatch .addRdSp w = true ↔ ∃ d r : Nat, d < 2 ∧ r < 8 ∧ w.toNat = 0x4468 + 0x80 * d + r := by
  rw [rawMatch_addRdSp_iff, rawMatch_addHi_iff_div, rmHigh_eq_sp_iff]
  constructor
  · rintro ⟨hhi, hrm⟩
    exact ⟨w.toNat / 128 % 2, w.toNat % 8, by omega, by omega, by omega⟩
  · rintro ⟨d, r, hd, hr, hw⟩
    omega

/-- Of the words with SP as source, one has SP as destination too. -/
theorem rdHigh_eq_sp_iff_of_rawMatch_addRdSp (h : rawMatch .addRdSp w = true) : rdHigh w = .sp ↔ w = 0x44ED#16 := by
  rw [rawMatch_addRdSp_iff, rawMatch_addHi_iff_div, rmHigh_eq_sp_iff] at h
  rw [rdHigh_eq_sp_iff, ← BitVec.toNat_inj, BitVec.toNat_ofNat]
  omega

/-- R100, R114: a word is recognized exactly if some entry raw-matches it. -/
theorem exists_decode_eq_variant_iff : (∃ i, decode w = .variant i) ↔ ∃ v, rawMatch v w = true := by
  obtain ⟨v, hv, hdec⟩ | ⟨hno, hdec⟩ := decode_cases w
  · exact iff_of_true ⟨_, hdec⟩ ⟨v, rawMatch_of_identify hv⟩
  · simp [hdec, hno]

theorem decode_eq_unrecognized_iff_range {u : HWord} : decode w = .unrecognized u ↔ u = w ∧ ¬RecognizedRange w := by
  simp [decode_eq_unrecognized_iff, ← exists_rawMatch_iff]

end

/-! ### The bytes of a word (20_memory.md R42) -/

theorem bytesOfWord_eq (w : HWord) :
    bytesOfWord w = [BitVec.ofNat 8 (w.toNat % 256), BitVec.ofNat 8 (w.toNat / 256)] := by
  have hlow : w.extractLsb' 0 8 = BitVec.ofNat 8 (w.toNat % 256) := by
    rw [← BitVec.toNat_inj, toNat_field]
    simp
  have hhigh : w.extractLsb' 8 8 = BitVec.ofNat 8 (w.toNat / 256) := by
    rw [← BitVec.toNat_inj, toNat_field]
    simp
  rw [bytesOfWord, hlow, hhigh]

theorem wordOfBytes_bytesOfWord (w : HWord) : wordOfBytes (w.extractLsb' 0 8) (w.extractLsb' 8 8) = w :=
  BitVec.extractLsb'_append_extractLsb'

theorem decodeBytes_of_variant {w : HWord} {i : Instr} (rest : List Byte) (h : decode w = .variant i) :
    decodeBytes (bytesOfWord w ++ rest) = .variant i rest := by
  simp [decodeBytes, bytesOfWord, wordOfBytes_bytesOfWord, h]

theorem decodeBytes_of_unrecognized {u w : HWord} (rest : List Byte) (h : decode w = .unrecognized u) :
    decodeBytes (bytesOfWord w ++ rest) = .unrecognized u rest := by
  simp [decodeBytes, bytesOfWord, wordOfBytes_bytesOfWord, h]

/-! ### The obligations -/

/-- Settles O38: encode fixes the bits the value's own entry looks at, and a well-formed value is one that nothing of
smaller priority number takes. -/
theorem decodeEncode : Obligations.DecodeEncode := by
  intro i hwf
  have hid : identify i.tag (encode i) = true :=
    identify_iff_wf.mpr ⟨rawMatch_encode i, by rwa [extract_encode]⟩
  rw [decode_of_identify hid, extract_encode]

/-- Settles O39: Decode answers what the entry that identifies the word extracts. -/
theorem encodeDecode : Obligations.EncodeDecode := by
  intro w i hdec
  obtain ⟨v, hv, rfl⟩ := decode_eq_variant_iff.mp hdec
  obtain ⟨hraw, hwf⟩ := identify_iff_wf.mp hv
  exact ⟨hwf, encode_extract hraw⟩

/-- Settles O43: a recognized word is one that some entry raw-matches. -/
theorem recognizedWordsAreFiveRanges : Obligations.RecognizedWordsAreFiveRanges := fun _ =>
  exists_decode_eq_variant_iff.trans exists_rawMatch_iff

/-- Settles O44: patterns of different entries agree in the high-register format only, where SP in a field decides. -/
theorem rawMatchOverlaps : Obligations.RawMatchOverlaps := by
  refine ⟨?overlap, fun _ => rawMatch_addSpSp_iff_exists, fun _ => rawMatch_addRdSp_iff_exists,
    fun _ => identify_addSpSp_iff.mpr, ?source⟩
  case overlap =>
    intro w u v huv hu hv
    obtain ⟨hum, hvm⟩ := mem_highForms_of_rawMatch_of_ne huv hu hv
    have hhi := rawMatch_addHi_iff_div.mp (rawMatch_addHi_of_mem_highForms hum hu)
    exact ⟨hum, hvm, by omega, by omega⟩
  case source =>
    intro w h
    rw [identify_addRdSp_iff, Ne, rdHigh_eq_sp_iff_of_rawMatch_addRdSp h]
    exact and_iff_right h

/-- Settles O45: each word evaluated. -/
theorem sampleWordsDecode : Obligations.SampleWordsDecode := by
  unfold Obligations.SampleWordsDecode
  decide

/-- Settles O46: the two bytes make the word again, so their decoding is the decoding of the word. -/
theorem bytesDecodeLittleEndian : Obligations.BytesDecodeLittleEndian := by
  intro w rest
  refine ⟨bytesOfWord_eq w, ?_⟩
  cases hdec : decode w
  case variant i => simp [decodeBytes_of_variant rest hdec]
  case unrecognized u => simp [decodeBytes_of_unrecognized rest hdec]

end Sys2Proof
end

section
/-!
PROOFS. Register access by index (10_state.md section 6): an instruction write field by field, what a read sees after it,
and what it leaves unchanged.
-/

namespace Sys2Proof.Machine

theorem clearBit0_eq_ofNat (x : Word) : clearBit0 x = BitVec.ofNat 32 (x.toNat / 2 * 2) := by
  rw [← clearBit0_toNat, BitVec.ofNat_toNat, BitVec.setWidth_eq]

section
variable (p : Params) (R : Registers) {r q : Reg} (x : Word)

theorem Registers.read_write_of_ne (h : q ≠ r) : (R.write p r x).regs.read p q = R.read p q := by
  cases r
  case gen i =>
    cases q
    case gen k => exact general_set_other R.general (fun e => h (congrArg Reg.gen e)) x
    all_goals rfl
  all_goals cases q <;> simp_all [Registers.sp]

/-! ### The frame of an instruction write -/

theorem Registers.write_general_of_ne {k : Fin 13} (h : r ≠ .gen k) : (R.write p r x).regs.general[k] = R.general[k] :=
  R.read_write_of_ne p x h.symm

theorem Registers.write_spMain_of_not (h : ¬(r = .sp ∧ R.spSelect = .msp)) :
    (R.write p r x).regs.spMain = R.spMain := by
  cases r
  case sp =>
    obtain ⟨hmsp, -⟩ | ⟨-, hset⟩ := R.setSp_cases (x &&& p.spWriteMask)
    · exact absurd ⟨rfl, hmsp⟩ h
    · simp [hset]
  all_goals rfl

theorem Registers.write_spProcess_of_not (h : ¬(r = .sp ∧ R.spSelect = .psp)) :
    (R.write p r x).regs.spProcess = R.spProcess := by
  cases r
  case sp =>
    obtain ⟨-, hset⟩ | ⟨hpsp, -⟩ := R.setSp_cases (x &&& p.spWriteMask)
    · simp [hset]
    · exact absurd ⟨rfl, hpsp⟩ h
  all_goals rfl

end

/-! ### The obligations -/

/-- Settles O8: the five cases of the write; the two banks are the two cases of SP. -/
theorem instructionWriteByIndex : Obligations.InstructionWriteByIndex := by
  intro p R x
  refine ⟨fun _ => rfl, fun hmsp => ?_, fun hpsp => ?_, rfl, clearBit0 x, rfl, clearBit0_toNat x⟩
  · rw [Registers.write_sp, Registers.setSp_of_msp hmsp]
    rfl
  · rw [Registers.write_sp, Registers.setSp_of_psp hpsp]
    rfl

/-- Settles O9: the written index by its own rule, every other index as before. -/
theorem readAfterWrite : Obligations.ReadAfterWrite := by
  intro p R r q x
  split_ifs with h
  · subst h
    cases q
    case pc => simp [clearBit0_eq_ofNat]
    all_goals simp
  · exact R.read_write_of_ne p x h

end Sys2Proof.Machine
end

section
/-!
PROOFS. Arithmetic facts the spec derives: overflow as signed overflow (R82), the table of a subtraction (43_sub.md), the
uniform restatement of the shifter (R88), and the flag commit (R91).
-/

namespace Sys2Proof.Machine

theorem AluResult.eq_mk {a : AluResult} {v : Word} {c o : Bool} (hv : a.result = v) (hc : a.carryOut = c)
    (ho : a.overflow = o) : a = ⟨v, c, o⟩ := by
  subst hv hc ho; rfl

section
variable (a b : Word)

/-- The overflow of a subtraction by the signs: those of the operands differ, and the result has not that of `a`. -/
theorem addWithCarry_overflow_sub_iff :
    (addWithCarry a (~~~b) true).overflow = true ↔
      a.msb ≠ b.msb ∧ (addWithCarry a (~~~b) true).result.msb ≠ a.msb := by
  rw [addWithCarry_overflow_iff, BitVec.msb_not]
  cases a.msb <;> cases b.msb <;> simp

theorem addWithCarry_sub_self : addWithCarry a (~~~a) true = ⟨0#32, true, false⟩ :=
  AluResult.eq_mk (by simp) (by simp [addWithCarry_carryOut_sub]) (by simp [addWithCarry_overflow_sub])

theorem addWithCarry_sub_zero : addWithCarry a (~~~0#32) true = ⟨a, true, false⟩ :=
  AluResult.eq_mk (by rw [addWithCarry_result_sub, BitVec.sub_zero]) (by rw [addWithCarry_carryOut_sub]; simp)
    (by rw [addWithCarry_overflow_sub]; simp)

/-- The one value whose negation overflows is the most negative. -/
theorem addWithCarry_overflow_zero_sub_iff :
    (addWithCarry 0#32 (~~~b) true).overflow = true ↔ b = 0x80000000#32 := by
  rw [addWithCarry_overflow_sub, decide_eq_true_iff, ← BitVec.toNat_inj, BitVec.toInt_eq_toNat_cond,
    BitVec.toInt_eq_toNat_cond, BitVec.toInt_eq_toNat_cond, BitVec.toNat_sub]
  have hb := b.isLt
  simp only [BitVec.toNat_ofNat]
  omega

end

/-! ### The shifter for every amount of at least 1 (R88) -/

section
variable (x : Word) {n : Nat} (cin : Bool)

theorem shiftWithCarryOut_lsl_carryOut_eq_testBit (h1 : 1 ≤ n) :
    (shiftWithCarryOut x .lsl n cin).carryOut = (x.toNat * 2 ^ n).testBit 32 := by
  rw [shiftWithCarryOut_lsl_carryOut_eq_ite, if_neg (Nat.one_le_iff_ne_zero.mp h1), Nat.testBit_mul_two_pow]
  by_cases h32 : n ≤ 32
  · simp [h32, BitVec.testBit_toNat]
  · simp [h32]

theorem shiftWithCarryOut_lsr_carryOut_eq_testBit (h1 : 1 ≤ n) :
    (shiftWithCarryOut x .lsr n cin).carryOut = (x.toNat / 2 ^ (n - 1)).testBit 0 := by
  rw [shiftWithCarryOut_lsr_carryOut_eq_ite, if_neg (Nat.one_le_iff_ne_zero.mp h1), Nat.testBit_div_two_pow,
    Nat.zero_add, BitVec.testBit_toNat]
  by_cases h32 : n ≤ 32
  · rw [if_pos h32]
  · rw [if_neg h32, BitVec.getLsbD_of_ge x (n - 1) (by omega)]

end

/-! ### The obligations -/

/-- Settles O13: for both carries in, the sign comparison is the comparison of the unbounded signed sum. -/
theorem overflowIsSignedOverflow : Obligations.OverflowIsSignedOverflow := addWithCarry_overflow_iff_toInt

/-- Settles O14: the outputs are the difference, "no borrow" and the signed overflow. -/
theorem subtractionOutcomesByCase : Obligations.SubtractionOutcomesByCase := by
  intro a b
  refine ⟨?equal, ?above, ?below, ?minusZero, ?fromZero, addWithCarry_overflow_sub_iff a b⟩
  case equal =>
    rintro rfl
    exact addWithCarry_sub_self a
  case above =>
    intro h
    rw [addWithCarry_result_sub, addWithCarry_carryOut_sub, BitVec.toNat_sub_of_le h.le]
    exact ⟨rfl, sub_ne_zero.mpr fun heq => h.ne' (congrArg _ heq), decide_eq_true h.le⟩
  case below =>
    intro h
    rw [addWithCarry_result_sub, addWithCarry_carryOut_sub, BitVec.toNat_sub_of_lt h]
    exact ⟨by omega, sub_ne_zero.mpr fun heq => h.ne (congrArg _ heq), decide_eq_false h.not_ge⟩
  case minusZero =>
    rintro rfl
    exact addWithCarry_sub_zero a
  case fromZero =>
    rintro rfl hb
    rw [addWithCarry_carryOut_sub]
    refine ⟨?_, addWithCarry_overflow_zero_sub_iff b⟩
    simpa [← BitVec.toNat_inj] using hb

/-- Settles O16: a left shift is a product and a right shift a quotient, at amounts beyond 32 too. -/
theorem shiftCarryUniform : Obligations.ShiftCarryUniform := by
  intro x n cin h1
  refine ⟨shiftWithCarryOut_lsl_carryOut_eq_testBit x cin h1, ?lsl,
    shiftWithCarryOut_lsr_carryOut_eq_testBit x cin h1, ?lsr⟩
  case lsl => rw [shiftWithCarryOut_lsl_result, BitVec.toNat_shiftLeft, Nat.shiftLeft_eq]
  case lsr => rw [shiftWithCarryOut_lsr_result, BitVec.toNat_ushiftRight, Nat.shiftRight_eq_div_pow]

/-- Settles O17: the policy resolves to true in the first case and to false in the second. -/
theorem flagCommitFollowsPolicy : Obligations.FlagCommitFollowsPolicy := by
  intro policy it result c vOpt f
  have hz : result = 0#32 ↔ result.toNat = 0 := by rw [← BitVec.toNat_inj]; rfl
  constructor
  · intro h
    have hresolve : resolve policy it = true := by rcases h with rfl | ⟨rfl, rfl⟩ <;> rfl
    rw [commitFlags, if_pos hresolve, BitVec.msb_eq_getLsbD_last]
    simp only [hz]
    cases vOpt <;> rfl
  · rintro (rfl | ⟨rfl, rfl⟩) <;> rfl

end Sys2Proof.Machine
end

section
/-!
PROOFS. What an Execute depends on: the operand reads, and for a shift the C flag (40_primitives.md R92). So `in_it_block`
gates the flags alone, N, Z and V are not read, and the unselected bank plays no part.
-/

namespace Sys2Proof.Machine

open Sys2Proof.Safety

/-! ### The two kinds of Execute (R121 to R126, R140, R152 to R155) -/

/-- The tags of the shift family. -/
abbrev shiftTags : List Variant := [.lslI, .lsrI, .lslR, .lsrR]

/-- Execute is an addition of two words, each taken from the operand reads. -/
def IsArithmetic (i : Instr) : Prop :=
  ∃ (x y : (Reg → Word) → Word) (cin : Bool), ∀ (p : Params) (R : Registers) (it : Bool),
    execute p i R it = arithmetic p i.members.setflags it R i.members.rd (x (R.read p)) (y (R.read p)) cin

/-- Execute is a shift of a word by an amount, both taken from the operand reads. -/
def IsShifting (i : Instr) : Prop :=
  ∃ (x : (Reg → Word) → Word) (kind : ShiftKind) (n : (Reg → Word) → Nat),
    ∀ (p : Params) (R : Registers) (it : Bool),
    execute p i R it = shifting p i.members.setflags it R i.members.rd (x (R.read p)) kind (n (R.read p))

theorem isArithmetic_of_not_mem {i : Instr} (hi : i.tag ∉ shiftTags) : IsArithmetic i := by
  cases i
  case addSpSp rm => exact ⟨fun x => x .sp, fun x => x rm, false, fun _ _ _ => rfl⟩
  case addRdSp rdm => exact ⟨fun x => x .sp, fun x => x rdm, false, fun _ _ _ => rfl⟩
  case addHi rdn rm => exact ⟨fun x => x rdn, fun x => x rm, false, fun _ _ _ => rfl⟩
  case addLo rd rn rm => exact ⟨fun x => x (lowReg rn), fun x => x (lowReg rm), false, fun _ _ _ => rfl⟩
  case subLo rd rn rm => exact ⟨fun x => x (lowReg rn), fun x => ~~~x (lowReg rm), true, fun _ _ _ => rfl⟩
  case addI3 rd rn imm => exact ⟨fun x => x (lowReg rn), fun _ => zext32 imm, false, fun _ _ _ => rfl⟩
  case addI8 rdn imm => exact ⟨fun x => x (lowReg rdn), fun _ => zext32 imm, false, fun _ _ _ => rfl⟩
  all_goals simp [Instr.tag] at hi

theorem isShifting_of_mem {i : Instr} (hi : i.tag ∈ shiftTags) : IsShifting i := by
  cases i
  case lslI rd rm imm => exact ⟨fun x => x (lowReg rm), .lsl, fun _ => immAmount .lsl imm, fun _ _ _ => rfl⟩
  case lsrI rd rm imm => exact ⟨fun x => x (lowReg rm), .lsr, fun _ => immAmount .lsr imm, fun _ _ _ => rfl⟩
  case lslR rdn rm => exact ⟨fun x => x (lowReg rdn), .lsl, fun x => regAmount (x (lowReg rm)), fun _ _ _ => rfl⟩
  case lsrR rdn rm => exact ⟨fun x => x (lowReg rdn), .lsr, fun x => regAmount (x (lowReg rm)), fun _ _ _ => rfl⟩
  all_goals simp [Instr.tag] at hi

/-- What is written and committed is the same from any registers with these operand reads and this C, and at either value
of `in_it_block`. -/
theorem execute_eq_finish_of_reads (p : Params) (i : Instr) (R : Registers) :
    ∃ result c vOpt, ∀ (S : Registers) (it : Bool), S.read p = R.read p → S.flags.c = R.flags.c →
      execute p i S it = finish p i.members.setflags it S i.members.rd result c vOpt := by
  by_cases hi : i.tag ∈ shiftTags
  · obtain ⟨x, kind, n, h⟩ := isShifting_of_mem hi
    let r := shiftWithCarryOut (x (R.read p)) kind (n (R.read p)) R.flags.c
    refine ⟨r.result, r.carryOut, none, fun S it hread hc => ?_⟩
    rw [h, hread, shifting, hc]
  · obtain ⟨x, y, cin, h⟩ := isArithmetic_of_not_mem hi
    let a := addWithCarry (x (R.read p)) (y (R.read p)) cin
    refine ⟨a.result, a.carryOut, some a.overflow, fun S it hread _ => ?_⟩
    rw [h, hread, arithmetic]

theorem shiftWithCarryOut_result_eq (x : Word) (kind : ShiftKind) (n : Nat) (c d : Bool) :
    (shiftWithCarryOut x kind n c).result = (shiftWithCarryOut x kind n d).result := by
  cases kind
  case lsl => rw [shiftWithCarryOut_lsl_result, shiftWithCarryOut_lsl_result]
  case lsr => rw [shiftWithCarryOut_lsr_result, shiftWithCarryOut_lsr_result]

/-- No variant has policy ALWAYS, so inside an IT block every flag is kept. -/
theorem commitFlags_inside (i : Instr) (result : Word) (c : Bool) (vOpt : Option Bool) (f : Flags) :
    commitFlags i.members.setflags true result c vOpt f = f := by
  obtain h | h := instr_setflags_cases i <;> rw [h] <;> rfl

/-! ### Registers that differ in the flags, or in the unselected bank, alone -/

section
variable (p : Params) (R : Registers) (rd : Reg) (result : Word)

theorem Registers.read_setFlags_eq (f : Flags) : (R.setFlags f).read p = R.read p :=
  funext (R.read_setFlags p f)

theorem finish_setFlags (policy : SetFlags) (it c : Bool) (vOpt : Option Bool) (f : Flags) :
    finish p policy it (R.setFlags f) rd result c vOpt =
      ⟨(R.write p rd result).regs.setFlags (commitFlags policy it result c vOpt f), decide (rd = .pc)⟩ := by
  rw [finish_eq, Registers.write_setFlags]
  rfl

theorem withOtherBank_setFlags (f : Flags) (x : Word) :
    withOtherBank (R.setFlags f) x = (withOtherBank R x).setFlags f := by
  cases h : R.spSelect <;> simp [withOtherBank, h, Registers.setFlags]

theorem withOtherBank_flags (x : Word) : (withOtherBank R x).flags = R.flags := by
  cases h : R.spSelect <;> simp [withOtherBank, h]

theorem withOtherBank_read (x : Word) : (withOtherBank R x).read p = R.read p := by
  funext r
  cases r
  case sp => exact withOtherBank_sp R x
  all_goals cases h : R.spSelect <;> simp [withOtherBank, h]

theorem withOtherBank_write (x : Word) :
    (withOtherBank R x).write p rd result =
      ⟨withOtherBank (R.write p rd result).regs x, (R.write p rd result).cfChanged⟩ := by
  cases hs : R.spSelect
  case msp =>
    rw [withOtherBank_of_msp hs, withOtherBank_of_msp (by rwa [Registers.write_spSelect])]
    cases rd
    case sp => simp [Registers.setSp, hs]; rfl
    all_goals rfl
  case psp =>
    rw [withOtherBank_of_psp hs, withOtherBank_of_psp (by rwa [Registers.write_spSelect])]
    cases rd
    case sp => simp [Registers.setSp, hs]; rfl
    all_goals rfl

end

/-! ### Runs that differ in the flags alone -/

section
variable (p : Params) {i : Instr} (R : Registers)

/-- An addition sees no flag. -/
theorem execute_setFlags_of_not_mem (hi : i.tag ∉ shiftTags) :
    ∃ result c v, ∀ (g : Flags) (it : Bool), execute p i (R.setFlags g) it =
      ⟨(R.write p i.members.rd result).regs.setFlags (commitFlags i.members.setflags it result c (some v) g),
        decide (i.members.rd = .pc)⟩ := by
  obtain ⟨x, y, cin, h⟩ := isArithmetic_of_not_mem hi
  let a := addWithCarry (x (R.read p)) (y (R.read p)) cin
  refine ⟨a.result, a.carryOut, a.overflow, fun g it => ?_⟩
  rw [h, Registers.read_setFlags_eq, arithmetic, finish_setFlags]

/-- A shift sees C alone, which reaches its carry and not its result. -/
theorem execute_setFlags_of_mem (hi : i.tag ∈ shiftTags) :
    ∃ (result : Word) (carry : Bool → Bool), ∀ (g : Flags) (it : Bool), execute p i (R.setFlags g) it =
      ⟨(R.write p i.members.rd result).regs.setFlags (commitFlags i.members.setflags it result (carry g.c) none g),
        decide (i.members.rd = .pc)⟩ := by
  obtain ⟨x, kind, n, h⟩ := isShifting_of_mem hi
  let r := shiftWithCarryOut (x (R.read p)) kind (n (R.read p))
  refine ⟨(r R.flags.c).result, fun c => (r c).carryOut, fun g it => ?_⟩
  rw [h, Registers.read_setFlags_eq, shifting, finish_setFlags, Registers.setFlags_flags,
    shiftWithCarryOut_result_eq _ _ _ g.c R.flags.c]

end

/-! ### The obligations -/

/-- Settles O19: the same write, and a commit that keeps the flags. -/
theorem itBlockGatesFlagsOnly : Obligations.ItBlockGatesFlagsOnly := by
  intro p i R
  obtain ⟨result, c, vOpt, hfinish⟩ := execute_eq_finish_of_reads p i R
  rw [hfinish R true rfl rfl, hfinish R false rfl rfl, finish_eq, finish_eq, commitFlags_inside]
  rfl

/-- Settles O20: an addition commits the same flags in both runs, a shift the same but for its carry and its own V. -/
theorem flagsAreReadOnlyAsShiftCarry : Obligations.FlagsAreReadOnlyAsShiftCarry := by
  intro p i R it f
  by_cases hi : i.tag ∈ shiftTags
  · obtain ⟨result, carry, hrun⟩ := execute_setFlags_of_mem p R hi
    have hown : execute p i R it = _ := hrun R.flags it
    rw [hrun f, hown]
    refine ⟨rfl, rfl, ?_⟩
    rintro hpolicy rfl
    rw [hpolicy]
    simp +contextual [hi]
  · obtain ⟨result, c, v, hrun⟩ := execute_setFlags_of_not_mem p R hi
    have hown : execute p i R it = _ := hrun R.flags it
    rw [hrun f, hown]
    refine ⟨rfl, rfl, ?_⟩
    rintro hpolicy rfl
    rw [hpolicy]
    simp [hi]

/-- Settles O21: the operand reads and the flags do not see the unselected bank, and the write does not touch it. -/
theorem unselectedBankIsInvisible : Obligations.UnselectedBankIsInvisible := by
  intro p i R it x
  obtain ⟨result, c, vOpt, hfinish⟩ := execute_eq_finish_of_reads p i R
  rw [hfinish R it rfl rfl, hfinish _ it (withOtherBank_read p R x) (by rw [withOtherBank_flags]), finish_eq, finish_eq,
    withOtherBank_write, withOtherBank_flags, withOtherBank_setFlags]

end Sys2Proof.Machine
end

section
/-!
PROOFS. The meanings on the machine: `exec` as the core's Execute at the decided parameters (40_primitives.md section 4),
the frame of every instruction (10_state.md section 6), and what each variant can reach (10_state.md section 2).
-/

namespace Sys2Proof.Machine

open Sys2Proof.Safety

/-! ### The destination and the policy of a variant (R101) -/

/-- The flag-setting variants write a low register, so a write to anything else keeps the flags. -/
theorem setflags_of_rd_ne_lowReg {i : Instr} (h : ∀ r : LowReg, i.members.rd ≠ lowReg r) : i.members.setflags = .never := by
  refine (instr_setflags_cases i).resolve_right fun hnotIt => ?_
  obtain ⟨r, hr⟩ := instr_rd_of_notIt hnotIt
  exact h r hr

theorem setflags_of_rd_eq_pc {i : Instr} (h : i.members.rd = .pc) : i.members.setflags = .never :=
  setflags_of_rd_ne_lowReg fun r => by simp [h, lowReg]

theorem setflags_eq_never_iff (i : Instr) : i.members.setflags = .never ↔ i.tag ∈ highForms := by
  cases i <;> simp [Instr.members, Instr.tag, Variant.setflags]

/-- No low register is one of r8 to r12. -/
theorem lowReg_ne_gen {k : Fin 13} (hk : 8 ≤ k.val) (r : LowReg) : lowReg r ≠ .gen k := by
  intro h
  have hval : r.val = k.val := congrArg Fin.val (Reg.gen.inj h)
  omega

/-- SP is the destination of a well-formed ADD_SP_SP alone. -/
theorem tag_of_rd_eq_sp {i : Instr} (hwf : i.wf = true) (hrd : i.members.rd = .sp) : i.tag = .addSpSp := by
  cases i
  case addSpSp => rfl
  all_goals simp_all [Instr.wf, Instr.members, lowReg]

/-- A destination that is neither SP nor a low register is one of ADD_HI or of ADD_RD_SP. -/
theorem tag_of_rd_ne_sp {i : Instr} (hsp : i.members.rd ≠ .sp) (hlow : ∀ r : LowReg, i.members.rd ≠ lowReg r) :
    i.tag = .addHi ∨ i.tag = .addRdSp := by
  have hmem := (setflags_eq_never_iff i).mp (setflags_of_rd_ne_lowReg hlow)
  cases i
  case addSpSp => exact absurd rfl hsp
  all_goals simp_all [Instr.tag]

/-! ### What an instruction leaves (10_state.md section 5 and section 6) -/

section
variable {i : Instr} {s t : State}

/-- A shift keeps V: it has none to write. -/
theorem exec_keeps_v_of_mem (hi : i.tag ∈ shiftTags) (h : exec i s = .next t) : t.regs.flags.v = s.regs.flags.v := by
  obtain ⟨result, carry, hrun⟩ := execute_setFlags_of_mem Config.params s.regs hi
  have hown : execute Config.params i s.regs s.inItBlock = _ := hrun s.regs.flags s.inItBlock
  rw [exec_eq_complete, hown] at h
  obtain ⟨hregs, -, -, -⟩ := complete_eq_next h
  rw [hregs]
  exact commitFlags_none_v ..

/-- An instruction that does not write PC leaves it. -/
theorem exec_keeps_pc (h : exec i s = .next t) (hcf : t.cfChanged = false) : t.regs.pc = s.regs.pc := by
  obtain ⟨result, c, vOpt, hregs, hcf', -, -⟩ := exec_cases h
  have hrd : i.members.rd ≠ .pc := by simpa [hcf'] using hcf
  rw [hregs]
  exact s.regs.write_pc_of_ne _ hrd result

/-- An instruction that writes PC writes nothing else, and an even value. -/
theorem exec_writes_pc_only (h : exec i s = .next t) (hcf : t.cfChanged = true) :
    ∃ v : Word, t.regs = s.regs.setPc v ∧ v.getLsbD 0 = false := by
  obtain ⟨result, c, vOpt, hregs, hcf', -, -⟩ := exec_cases h
  have hrd : i.members.rd = .pc := by simpa [hcf'] using hcf
  rw [setflags_of_rd_eq_pc hrd, hrd] at hregs
  exact ⟨clearBit0 result, hregs, clearBit0_bit0 result⟩

theorem exec_keeps_otherBank (h : exec i s = .next t) : otherBank t.regs = otherBank s.regs := by
  obtain ⟨result, c, vOpt, hregs, -, -, -⟩ := exec_cases h
  rw [hregs]
  exact otherBank_write Config.params s.regs i.members.rd result

theorem exec_keeps_spSelect (h : exec i s = .next t) : t.regs.spSelect = s.regs.spSelect := by
  obtain ⟨result, c, vOpt, hregs, -, -, -⟩ := exec_cases h
  rw [hregs]
  exact s.regs.write_spSelect Config.params i.members.rd result

end

/-! ### The obligations -/

/-- Settles O4: one write to the destination, one commit by the policy. -/
theorem execFrame : Obligations.ExecFrame := by
  intro i s t h
  obtain ⟨result, c, vOpt, hregs, hcf, hit, hprog⟩ := exec_cases h
  refine ⟨?general, ?lr, ?pc, ?spMain, ?spProcess, exec_keeps_spSelect h, ?flags, fun hi => exec_keeps_v_of_mem hi h, hcf,
    hit, fun a => by rw [hprog]⟩
  all_goals rw [hregs]
  case general => exact fun k hk => s.regs.write_general_of_ne _ result hk
  case lr => exact fun hrd => s.regs.write_lr_of_ne _ hrd result
  case pc => exact fun hrd => s.regs.write_pc_of_ne _ hrd result
  case spMain => exact s.regs.write_spMain_of_not _ result
  case spProcess => exact s.regs.write_spProcess_of_not _ result
  case flags =>
    rintro (hnever | hinside)
    · rw [hnever]
      rfl
    · rw [hinside]
      exact commitFlags_inside i result c vOpt s.regs.flags

/-- Settles O6: completing an Execute puts its two outputs into the state. -/
theorem execIsExecuteAtDecidedParameters : Obligations.ExecIsExecuteAtDecidedParameters := exec_eq_complete

/-- Settles O18: the low register that is written and the flags that are committed come from one result. -/
theorem flagsDescribeTheStoredValue : Obligations.FlagsDescribeTheStoredValue := by
  intro i s t hpolicy hit h
  obtain ⟨result, c, vOpt, hregs, -, -, -⟩ := exec_cases h
  obtain ⟨r, hrd⟩ := instr_rd_of_notIt hpolicy
  have hread : t.regs.read Config.params i.members.rd = result := by
    rw [hregs, hrd, Registers.read_setFlags, readAfterWrite, if_pos rfl]
    rfl
  rw [hread, hregs, hpolicy, hit]
  exact ⟨rfl, rfl⟩

/-- Settles O28: the decided mask covers all 32 bits. -/
theorem addToStackPointerKeepsAllBits : Obligations.AddToStackPointerKeepsAllBits := by
  intro s rm
  have hmask : Config.params.spWriteMask = BitVec.allOnes 32 := rfl
  rw [exec_eq_complete, addToStackPointer, hmask, BitVec.and_allOnes]
  rfl

/-- Settles O29: the stored value is masked, and the mask is a multiple of 4. -/
theorem alignedStackMaskAlignsStackPointer : Obligations.AlignedStackMaskAlignsStackPointer := by
  intro p R it rm hmask
  have halign (x : Word) : (x &&& 0xFFFFFFFC#32).toNat % 2 ^ 2 = 0 := by
    rw [BitVec.toNat_and, Nat.and_mod_two_pow]
    exact Nat.and_zero _
  rw [execute_addSpSp, Registers.write_sp, Registers.setSp_sp, hmask]
  exact halign _

/-- Settles O30: with destination SP the three forms are one addition. -/
theorem unreachableStackDestinationsFollowGenericRule : Obligations.UnreachableStackDestinationsFollowGenericRule :=
  fun _ _ => ⟨rfl, rfl⟩

/-- Settles O32: what changed was the destination, and the destination of a decoded value tells the variant. -/
theorem reachOfVariants : Obligations.ReachOfVariants := by
  intro w i s t hdec h
  obtain ⟨hwf, -⟩ := encodeDecode w i hdec
  obtain ⟨hgeneral, hlr, hpc, hmain, hprocess, -, hflags, -⟩ := execFrame i s t h
  refine ⟨?bank, ?control, ?high, ?flags⟩
  case bank =>
    rintro (hne | hne)
    · exact tag_of_rd_eq_sp hwf (not_not.mp (mt hmain hne)).1
    · exact tag_of_rd_eq_sp hwf (not_not.mp (mt hprocess hne)).1
  case control =>
    rintro (hne | hne)
    · have hrd : i.members.rd = .pc := not_not.mp (mt hpc hne)
      exact tag_of_rd_ne_sp (by simp [hrd]) fun r => by simp [hrd, lowReg]
    · have hrd : i.members.rd = .lr := not_not.mp (mt hlr hne)
      exact tag_of_rd_ne_sp (by simp [hrd]) fun r => by simp [hrd, lowReg]
  case high =>
    intro k hk hne
    have hrd : i.members.rd = .gen k := not_not.mp (mt (hgeneral k) hne)
    exact tag_of_rd_ne_sp (by simp [hrd]) fun r => by rw [hrd]; exact (lowReg_ne_gen hk r).symm
  case flags => exact fun hne hmem => hne (hflags (.inl ((setflags_eq_never_iff i).mpr hmem)))

/-- Settles O49: the advance adds 2 where PC was not written, and nothing where it was. -/
theorem coreNeverAdvancesPc : Obligations.CoreNeverAdvancesPc := by
  intro i s t h
  constructor
  · intro hcf
    have hpc := exec_keeps_pc h hcf
    refine ⟨hpc, ?_⟩
    rw [advance_of_unchanged hcf, State.setRegs_regs, Registers.setPc_pc, hpc]
    exact BitVec.toNat_add _ _
  · intro hcf
    exact ⟨advance_of_changed hcf, exec_writes_pc_only h hcf⟩

end Sys2Proof.Machine
end

section
/-!
PROOFS. The core's call and the reference caller (60_exceptions.md section 1, 70_reset_and_hazards.md section 5): the three
things a step can do, what it keeps, and how a run ends.
-/

namespace Sys2Proof.Machine

open Sys2Proof.Safety

/-! ### The core's call on a word -/

section
variable {w : HWord} {s : State}

theorem coreCall_of_variant {i : Instr} (h : decode w = .variant i) : coreCall w s = exec i s := by
  simp [coreCall, h]

theorem coreCall_of_unrecognized {u : HWord} (h : decode w = .unrecognized u) :
    coreCall w s = .fault (.unrecognizedInstruction u) := by
  simp [coreCall, h, raiseUnrecognized]

/-- A call of the core executes a recognized word and faults on any other. -/
theorem coreCall_cases (w : HWord) (s : State) :
    (RecognizedRange w ∧ ∃ t, coreCall w s = .next t) ∨
      (¬RecognizedRange w ∧ coreCall w s = .fault (.unrecognizedInstruction w)) := by
  cases hdec : decode w
  case variant i =>
    obtain ⟨t, ht⟩ := exec_eq_next i s
    exact .inl ⟨(recognizedWordsAreFiveRanges w).mp ⟨i, hdec⟩, t, (coreCall_of_variant hdec).trans ht⟩
  case unrecognized u =>
    obtain ⟨rfl, hrange⟩ := decode_eq_unrecognized_iff_range.mp hdec
    exact .inr ⟨hrange, coreCall_of_unrecognized hdec⟩

end

/-! ### The three things a step can do (R196) -/

section
variable {s t : State} {w : HWord}

theorem step_of_fetch_eq_none (h : fetch s = none) : step s = .refused .halted := by
  simp [step, refStep, h]

theorem step_of_coreCall_fault {f : Fault} (h : fetch s = some w) (hcall : coreCall w s = .fault f) :
    step s = .fault f := by
  simp [step, refStep, h, hcall]

theorem step_of_coreCall_next (h : fetch s = some w) (hcall : coreCall w s = .next t) : step s = .next (advance t) := by
  simp [step, refStep, h, hcall]

theorem step_outcome (s : State) :
    (∃ t, step s = .next t) ∨ (fetch s = none ∧ step s = .refused .halted) ∨
      ∃ w, fetch s = some w ∧ ¬RecognizedRange w ∧ step s = .fault (.unrecognizedInstruction w) := by
  cases hfetch : fetch s
  case none => exact .inr (.inl ⟨rfl, step_of_fetch_eq_none hfetch⟩)
  case some w =>
    obtain ⟨-, t, ht⟩ | ⟨hrange, hfault⟩ := coreCall_cases w s
    · exact .inl ⟨advance t, step_of_coreCall_next hfetch ht⟩
    · exact .inr (.inr ⟨w, rfl, hrange, step_of_coreCall_fault hfetch hfault⟩)

/-! ### What a step keeps -/

theorem bit0_eq_false_iff {v : Word} : v.getLsbD 0 = false ↔ v.toNat % 2 = 0 := by
  rw [← BitVec.testBit_toNat, Nat.testBit_zero, decide_eq_false_iff_not]
  omega

/-- The caller's advance keeps an even `pc` even, the wrap at 2^32 included. -/
theorem pcEven_advance (h : PcEven s) : PcEven (advance s) := by
  cases hcf : s.cfChanged
  case true => rwa [advance_of_changed hcf]
  case false =>
    simp only [PcEven, bit0_eq_false_iff] at h ⊢
    rw [advance_of_unchanged hcf, State.setRegs_regs, Registers.setPc_pc, BitVec.toNat_add]
    simp only [Config.instrBytes, BitVec.toNat_ofNat]
    omega

theorem pcEven_exec {i : Instr} (heven : PcEven s) (h : exec i s = .next t) : PcEven t := by
  cases hcf : t.cfChanged
  case false => rwa [PcEven, exec_keeps_pc h hcf]
  case true =>
    obtain ⟨v, hregs, hv⟩ := exec_writes_pc_only h hcf
    rwa [PcEven, hregs]

theorem advance_spSelect (s : State) : (advance s).regs.spSelect = s.regs.spSelect := by
  unfold advance; split <;> rfl

theorem advance_otherBank (s : State) : otherBank (advance s).regs = otherBank s.regs := by
  unfold advance; split <;> rfl

/-- What no step changes: the selector, the bank it does not name, the caller's input and the program. -/
def SameFixedParts (s t : State) : Prop :=
  t.regs.spSelect = s.regs.spSelect ∧ otherBank t.regs = otherBank s.regs ∧ t.inItBlock = s.inItBlock ∧ t.prog = s.prog

theorem sameFixedParts_step (h : step s = .next t) : SameFixedParts s t := by
  obtain ⟨w, i, u, -, -, hexec, rfl⟩ := step_cases h
  obtain ⟨-, -, -, -, -, hit, hprog⟩ := exec_cases hexec
  exact ⟨(advance_spSelect u).trans (exec_keeps_spSelect hexec),
    (advance_otherBank u).trans (exec_keeps_otherBank hexec), (advance_inItBlock u).trans hit, (advance_prog u).trans hprog⟩

theorem SameFixedParts.trans {u : State} (h : SameFixedParts s t) (h' : SameFixedParts t u) : SameFixedParts s u := by
  obtain ⟨hselect, hbank, hit, hprog⟩ := h
  obtain ⟨hselect', hbank', hit', hprog'⟩ := h'
  exact ⟨hselect'.trans hselect, hbank'.trans hbank, hit'.trans hit, hprog'.trans hprog⟩

end

/-! ### Runs -/

section
variable {n : Nat} {s t : State} {w : HWord}

theorem refRun_succ_of_next (h : step s = .next t) : refRun (n + 1) s = refRun n t := by
  rw [step] at h
  simp [refRun, h]

theorem refRun_succ_of_halted (h : step s = .refused .halted) : refRun (n + 1) s = .halted s := by
  rw [step] at h
  simp [refRun, h]

theorem refRun_succ_of_fault (h : step s = .fault (.unrecognizedInstruction w)) : refRun (n + 1) s = .faulted w s := by
  rw [step] at h
  simp [refRun, h]

/-- How a run may stand: running, halted outside the program, or faulted on the unrecognized word at `pc`. -/
def EndsProperly : RunResult → Prop
  | .running _ => True
  | .halted t => fetch t = none
  | .faulted w t => fetch t = some w ∧ ¬RecognizedRange w
  | .refused _ _ => False

/-- A run that still runs goes on for `m` more steps; one that ended stays as it is. -/
def continueRun (m : Nat) : RunResult → RunResult
  | .running t => refRun m t
  | .halted t => .halted t
  | .faulted w t => .faulted w t
  | .refused r t => .refused r t

theorem sameFixedParts_refRun (n : Nat) (s : State) : SameFixedParts s (runState (refRun n s)) := by
  induction n generalizing s with
  | zero => exact ⟨rfl, rfl, rfl, rfl⟩
  | succ n ih =>
    obtain ⟨t, hnext⟩ | ⟨-, hhalt⟩ | ⟨w, -, -, hfault⟩ := step_outcome s
    · rw [refRun_succ_of_next hnext]
      exact (sameFixedParts_step hnext).trans (ih t)
    · rw [refRun_succ_of_halted hhalt]
      exact ⟨rfl, rfl, rfl, rfl⟩
    · rw [refRun_succ_of_fault hfault]
      exact ⟨rfl, rfl, rfl, rfl⟩

theorem endsProperly_refRun (n : Nat) (s : State) : EndsProperly (refRun n s) := by
  induction n generalizing s with
  | zero => trivial
  | succ n ih =>
    obtain ⟨t, hnext⟩ | ⟨hfetch, hhalt⟩ | ⟨w, hfetch, hrange, hfault⟩ := step_outcome s
    · rw [refRun_succ_of_next hnext]
      exact ih t
    · rw [refRun_succ_of_halted hhalt]
      exact hfetch
    · rw [refRun_succ_of_fault hfault]
      exact ⟨hfetch, hrange⟩

theorem refRun_add (n m : Nat) (s : State) : refRun (n + m) s = continueRun m (refRun n s) := by
  induction n generalizing s with
  | zero => rw [Nat.zero_add]; rfl
  | succ n ih =>
    rw [Nat.succ_add]
    obtain ⟨t, hnext⟩ | ⟨-, hhalt⟩ | ⟨w, -, -, hfault⟩ := step_outcome s
    · rw [refRun_succ_of_next hnext, refRun_succ_of_next hnext, ih]
    · rw [refRun_succ_of_halted hhalt, refRun_succ_of_halted hhalt]
      rfl
    · rw [refRun_succ_of_fault hfault, refRun_succ_of_fault hfault]
      rfl

end

/-! ### A word loaded where the caller fetches next (log 7) -/

theorem withFetchWord_eq (s : State) (w : HWord) :
    s.withFetchWord 16 w.toNat =
      (s.setRegs (s.regs.setPc (clearBit0 s.regs.pc))).setProg (s.prog.set (clearBit0 s.regs.pc).toNat w) := by
  have hword : tableWord 16 w.toNat = w := by
    rw [tableWord, Nat.mod_eq_of_lt w.isLt, BitVec.ofNat_toNat, BitVec.setWidth_eq]
  rw [State.withFetchWord, hword]
  rfl

theorem fetch_withFetchWord (s : State) (w : HWord) : fetch (s.withFetchWord 16 w.toNat) = some w := by
  rw [withFetchWord_eq]
  exact Program.lookup_set_same _ _ w

theorem addressOk_clearBit0 (v : Word) : Program.addressOk (clearBit0 v).toNat = true := by
  have heven : (clearBit0 v).toNat % 2 = 0 := bit0_eq_false_iff.mp (clearBit0_bit0 v)
  simp only [Program.addressOk, heven, decide_eq_true (clearBit0 v).isLt]
  rfl

/-! ### The obligations -/

/-- Settles O1: the empty program has no word at any `pc`. -/
theorem resetStateOutsideItWithNoProgram : Obligations.ResetStateOutsideItWithNoProgram :=
  ⟨fun _ => ⟨rfl, rfl, rfl, step_of_fetch_eq_none rfl⟩, rfl, rfl⟩

/-- Settles O2: the core leaves `pc` or writes an even one, the caller adds 2, and neither writes the program. -/
theorem stepKeepsInvariant : Obligations.StepKeepsInvariant := by
  rintro s t ⟨heven, hprog⟩ h
  obtain ⟨w, i, u, -, -, hexec, rfl⟩ := step_cases h
  obtain ⟨-, -, -, hsame⟩ := sameFixedParts_step h
  exact ⟨pcEven_advance (pcEven_exec heven hexec), by rwa [ProgramWf, hsame]⟩

/-- Settles O3: by induction on the length of the run. -/
theorem runNeverTouchesSelectorOrOtherBank : Obligations.RunNeverTouchesSelectorOrOtherBank := sameFixedParts_refRun

/-- Settles O47: the core's call fails in Decode alone, and the caller's step hands its fault on. -/
theorem onlyFaultIsUnrecognizedWord : Obligations.OnlyFaultIsUnrecognizedWord := by
  refine ⟨?call, ?exec, ?step⟩
  case call =>
    intro w s f
    obtain ⟨hrange, t, ht⟩ | ⟨hrange, hfault⟩ := coreCall_cases w s
    · simp [ht, hrange]
    · simp [hfault, hrange, eq_comm]
  case exec =>
    intro i s f
    obtain ⟨t, ht⟩ := exec_eq_next i s
    simp [ht]
  case step =>
    intro s f
    constructor
    · intro h
      obtain ⟨t, hnext⟩ | ⟨-, hhalt⟩ | ⟨w, hfetch, hrange, hfault⟩ := step_outcome s
      · simp [hnext] at h
      · simp [hhalt] at h
      · exact ⟨w, hfetch, hrange, (Host.Outcome.fault.inj (hfault.symm.trans h)).symm⟩
    · rintro ⟨w, hfetch, hrange, rfl⟩
      exact step_of_coreCall_fault hfetch (coreCall_of_unrecognized (decode_eq_unrecognized_iff_range.mpr ⟨rfl, hrange⟩))

/-- Settles O48: the three cases of the step. -/
theorem stepRunsDecodedInstruction : Obligations.StepRunsDecodedInstruction := by
  intro s
  refine ⟨step_of_fetch_eq_none, fun w hfetch => ⟨fun hdec => ?_, fun i t hdec hexec => ?_⟩⟩
  · exact step_of_coreCall_fault hfetch (coreCall_of_unrecognized hdec)
  · exact step_of_coreCall_next hfetch ((coreCall_of_variant hdec).trans hexec)

/-- Settles O50: a longer run continues the shorter one, which ended as a run may. -/
theorem runEndsAtFirstHaltOrFault : Obligations.RunEndsAtFirstHaltOrFault := by
  intro n m s t
  have hproper := endsProperly_refRun n s
  rw [refRun_add]
  refine ⟨fun h => ?_, fun w h => ?_, fun h => ?_⟩ <;> rw [h] at hproper ⊢
  · exact ⟨rfl, hproper⟩
  · exact ⟨rfl, hproper⟩
  · rfl

/-- Settles O51: a refusal other than the halt is no way for a run to end. -/
theorem runIsNeverRefused : Obligations.RunIsNeverRefused := by
  intro n s t r h
  have hproper := endsProperly_refRun n s
  rwa [h] at hproper

/-- Settles O52: the word is set at the `pc` with bit 0 cleared, which is an address of the program map. -/
theorem fetchWordIsRunNext : Obligations.FetchWordIsRunNext := by
  intro s w hprog
  refine ⟨fetch_withFetchWord s w, ?wf, ?even, ?regs, ?it, ?cf, ?other, ?step⟩
  case step =>
    intro i hdec
    obtain ⟨t, ht⟩ := exec_eq_next i (s.withFetchWord 16 w.toNat)
    exact ⟨_, step_of_coreCall_next (fetch_withFetchWord s w) ((coreCall_of_variant hdec).trans ht)⟩
  all_goals rw [withFetchWord_eq]
  case wf => exact Program.wf_set w (addressOk_clearBit0 _) hprog
  case even =>
    intro heven
    rw [clearBit0_of_even heven]
    rfl
  case regs => exact ⟨clearBit0 s.regs.pc, clearBit0_toNat _, rfl⟩
  case it => rfl
  case cf => rfl
  case other =>
    intro a ha
    rw [← clearBit0_toNat] at ha
    exact Program.lookup_set_other _ ha w

end Sys2Proof.Machine
end
